-- ==== Sys2Proof/Word.lean ====
section
/-! DEFINITION. The word types of MBCODEC: bytes, 16-bit CRC values and 32-bit command and result words (R9, R11). -/

namespace Sys2Proof

/-- A byte: a frame byte, an 8-bit register or an 8-bit operand. -/
abbrev Byte := BitVec 8

/-- A 16-bit value: a CRC register or a start address. -/
abbrev Half := BitVec 16

/-- A 32-bit value: a command word (R70), a result value (R40) or the STATUS word (R38). -/
abbrev Word := BitVec 32

end Sys2Proof
end

