-- ==== Sys2Proof/Syntax.lean ====
section
/-! DEFINITION. The twelve commands of MBCODEC, one constructor per row of spec/opcode_table.json, and their
mnemonics (30_encoding.md R75). -/

namespace Sys2Proof

/-- A command with its operands. Every operand has the width of its field (R71-R74); the legal ranges are checked by
the command, not by the decoder (R74). -/
inductive Instr where
  /-- CRC.INIT (R106). -/
  | crcInit
  /-- CRC.BYTE b (R107). -/
  | crcByte (b : Byte)
  /-- CRC.READ (R108). -/
  | crcRead
  /-- CRC.CHECK lo, hi (R109): lo is the CRC byte received first. -/
  | crcCheck (lo hi : Byte)
  /-- ENC.RD start, words (R132). -/
  | encRd (start : Half) (words : Byte)
  /-- XCH.RD start, words (R133). -/
  | xchRd (start : Half) (words : Byte)
  /-- DEC.BYTE b (R151). -/
  | decByte (b : Byte)
  /-- DEC.ABORT (R164). -/
  | decAbort
  /-- DEC.RDBUF i (R165). -/
  | decRdbuf (i : Byte)
  /-- DEC.STATUS (R166). -/
  | decStatus
  /-- CFG.SETADDR a (R190). -/
  | cfgSetaddr (a : Byte)
  /-- CFG.GETADDR (R191). -/
  | cfgGetaddr
  deriving DecidableEq, Repr

/-- The mnemonics of R75, for the assembler syntax (R83). -/
inductive Mnemonic where
  | crcInit | crcByte | crcRead | crcCheck
  | encRd | xchRd
  | decByte | decAbort | decRdbuf | decStatus
  | cfgSetaddr | cfgGetaddr
  deriving DecidableEq, Repr

/-- A command as a source line names it (R83): a mnemonic and its numeric operands in the order written, of any
size. `SourceCommand.wellFormed` says which of them spell a word. -/
structure SourceCommand where
  mnemonic : Mnemonic
  operands : List Nat
  deriving DecidableEq, Repr

/-- A command written as a source line writes it: operands in the order of R83. -/
def Instr.toSource : Instr → SourceCommand
  | .crcInit => ⟨.crcInit, []⟩
  | .crcByte b => ⟨.crcByte, [b.toNat]⟩
  | .crcRead => ⟨.crcRead, []⟩
  | .crcCheck lo hi => ⟨.crcCheck, [lo.toNat, hi.toNat]⟩
  | .encRd start words => ⟨.encRd, [start.toNat, words.toNat]⟩
  | .xchRd start words => ⟨.xchRd, [start.toNat, words.toNat]⟩
  | .decByte b => ⟨.decByte, [b.toNat]⟩
  | .decAbort => ⟨.decAbort, []⟩
  | .decRdbuf i => ⟨.decRdbuf, [i.toNat]⟩
  | .decStatus => ⟨.decStatus, []⟩
  | .cfgSetaddr a => ⟨.cfgSetaddr, [a.toNat]⟩
  | .cfgGetaddr => ⟨.cfgGetaddr, []⟩

end Sys2Proof
end

