-- ==== Sys2Proof/Decode.lean ====
section
/-! DEFINITION. The decoder of command words, row by row as 30_encoding.md R75 and R76 give it, the encoder by format
(R70-R74), and the host's reading of an opcode-table word. -/

namespace Sys2Proof

/-- `w[7:0]`: the operand b of format B, lo of format H and words of format R (R72-R74). -/
def fieldLow (w : Word) : Byte := w.extractLsb' 0 8

/-- `w[15:8]`: the operand hi of format H (R73). -/
def fieldHi (w : Word) : Byte := w.extractLsb' 8 8

/-- `w[23:8]`: the operand start of format R (R74). -/
def fieldStart (w : Word) : Half := w.extractLsb' 8 16

/-- A row of the opcode map (R75): a word is the command when `w and mask = pattern`; `build` reads its fields. -/
structure OpcodeRow where
  mnemonic : Mnemonic
  pattern : Word
  mask : Word
  build : Word → Instr

/-- The opcode map (R75). -/
def opcodeMap : List OpcodeRow := [
  ⟨.crcInit, 0x01000000#32, 0xFFFFFFFF#32, fun _ => .crcInit⟩,
  ⟨.crcByte, 0x02000000#32, 0xFFFFFF00#32, fun w => .crcByte (fieldLow w)⟩,
  ⟨.crcRead, 0x03000000#32, 0xFFFFFFFF#32, fun _ => .crcRead⟩,
  ⟨.crcCheck, 0x04000000#32, 0xFFFF0000#32, fun w => .crcCheck (fieldLow w) (fieldHi w)⟩,
  ⟨.encRd, 0x10000000#32, 0xFF000000#32, fun w => .encRd (fieldStart w) (fieldLow w)⟩,
  ⟨.xchRd, 0x11000000#32, 0xFF000000#32, fun w => .xchRd (fieldStart w) (fieldLow w)⟩,
  ⟨.decByte, 0x20000000#32, 0xFFFFFF00#32, fun w => .decByte (fieldLow w)⟩,
  ⟨.decAbort, 0x21000000#32, 0xFFFFFFFF#32, fun _ => .decAbort⟩,
  ⟨.decRdbuf, 0x22000000#32, 0xFFFFFF00#32, fun w => .decRdbuf (fieldLow w)⟩,
  ⟨.decStatus, 0x23000000#32, 0xFFFFFFFF#32, fun _ => .decStatus⟩,
  ⟨.cfgSetaddr, 0x30000000#32, 0xFFFFFF00#32, fun w => .cfgSetaddr (fieldLow w)⟩,
  ⟨.cfgGetaddr, 0x31000000#32, 0xFFFFFFFF#32, fun _ => .cfgGetaddr⟩]

/-- The row's test: `(w and mask) = match` (R75). -/
def rowMatches (r : OpcodeRow) (w : Word) : Bool := w &&& r.mask == r.pattern

/-- The search of R76 through the rows from the first. -/
def decodeRows : List OpcodeRow → Word → Option Instr
  | [], _ => none
  | r :: rs, w => if rowMatches r w then some (r.build w) else decodeRows rs w

/-- The decoding function of R76, total on all words: `none` is ILLEGAL (R77, R78). -/
def decode (w : Word) : Option Instr := decodeRows opcodeMap w

/-- OPC in bits [31:24] (R70). -/
def opcField (opc : Byte) : Word := opc.setWidth 32 <<< 24

/-- Format N (R71): OPC and 24 zero bits. -/
def encodeN (opc : Byte) : Word := opcField opc

/-- Format B (R72): OPC, 16 zero bits and a byte. -/
def encodeB (opc b : Byte) : Word := opcField opc ||| b.setWidth 32

/-- Format H (R73): OPC, 8 zero bits, hi and lo. -/
def encodeH (opc lo hi : Byte) : Word := opcField opc ||| (hi.setWidth 32 <<< 8) ||| lo.setWidth 32

/-- Format R (R74): OPC, start and words. -/
def encodeR (opc : Byte) (start : Half) (words : Byte) : Word :=
  opcField opc ||| (start.setWidth 32 <<< 8) ||| words.setWidth 32

/-- The word of a command: its OPC (R75) in its format (R71-R74). -/
def encode : Instr → Word
  | .crcInit => encodeN 0x01#8
  | .crcByte b => encodeB 0x02#8 b
  | .crcRead => encodeN 0x03#8
  | .crcCheck lo hi => encodeH 0x04#8 lo hi
  | .encRd start words => encodeR 0x10#8 start words
  | .xchRd start words => encodeR 0x11#8 start words
  | .decByte b => encodeB 0x20#8 b
  | .decAbort => encodeN 0x21#8
  | .decRdbuf i => encodeB 0x22#8 i
  | .decStatus => encodeN 0x23#8
  | .cfgSetaddr a => encodeB 0x30#8 a
  | .cfgGetaddr => encodeN 0x31#8

/-- The command word that an opcode-table word of `nbits` bits stands for: bit 0 is the least significant (R11, R54),
and every bit at or above `nbits` is 0. -/
def tableWord (nbits w : Nat) : Word := BitVec.ofNat 32 (w % 2 ^ nbits)

/-- What the decoder reads from an opcode-table word. A command is one 32-bit value, not bytes (R54), so the word is
the bits as they are numbered. -/
def decodeTableWord (nbits w : Nat) : Option Instr := decode (tableWord nbits w)

end Sys2Proof
end

