-- ==== Sys2Proof/Config.lean ====
section
/-! DEFINITION. The fixed parameters of MBCODEC (00_scope.md R9). CRC_IMPL is no parameter: no command can observe
it (R10). The result of no command is open in the spec, so there is no free value here; what PBUF holds before it is
written is the model's (log 3). -/

namespace Sys2Proof.Config

/-- The reflected CRC polynomial, 0x8005 bit-reversed (R9, R100). -/
def crcPoly : Half := 0xA001#16

/-- The CRC seed (R9, R102). -/
def crcSeed : Half := 0xFFFF#16

/-- The device address at reset: "default 1" (R9, R24). -/
def addrDefault : Byte := 0x01#8

/-- The highest legal device address; the lowest is 1 (R9, R24). -/
def addrMax : Nat := 0xF7

/-- The function code of the request and of a normal response (R9). -/
def funcRead : Byte := 0x03#8

/-- The function code of an exception response (R9). -/
def funcException : Byte := 0x83#8

/-- The highest legal start address; the lowest is 0 (R9, R131). -/
def startMax : Nat := 0x1000

/-- The highest legal word count; the lowest is 1 (R9, R131). -/
def wordsMax : Nat := 0x7D

/-- The highest legal byte length of a normal response; the lowest is 1 (R9, R155). -/
def byteLenMax : Nat := 0xFA

/-- The size of the payload buffer PBUF in bytes (R9, R36). -/
def pbufSize : Nat := 250

/-- What a byte of PBUF holds at reset, and so until DEC.BYTE writes it. DESIGN CHOICE (log 3): the spec leaves it
unspecified, "any value" (R22, R36, I1), and no command of a run can observe it. -/
def pbufUnwritten : Byte := 0x00#8

end Sys2Proof.Config
end

