-- ==== Sys2Proof/Machine/Operands.lean ====
section
/-! DEFINITION. The operand forms of the commands: halves of a 16-bit value (R12), zero-extension into RVAL (R54), and
the legal ranges that the commands check (R131, R155, R190). -/

namespace Sys2Proof.Machine

/-- `lo8(v) = v[7:0]` (R12). -/
def lo8 (v : Half) : Byte := v.extractLsb' 0 8

/-- `hi8(v) = v[15:8]` (R12). -/
def hi8 (v : Half) : Byte := v.extractLsb' 8 8

/-- `zext_16` of a byte (R12). -/
def zext16 (b : Byte) : Half := b.setWidth 16

/-- The concatenation `hi:lo` of two bytes, `(zext_16(hi) << 8) or zext_16(lo)` (R12). -/
def hiLo (hi lo : Byte) : Half := (zext16 hi <<< 8) ||| zext16 lo

/-- `zext_32` of a byte, as RVAL carries it (R12, R54). -/
def zextByte (b : Byte) : Word := b.setWidth 32

/-- `zext_32` of a 16-bit value, as RVAL carries it (R12, R54). -/
def zextHalf (v : Half) : Word := v.setWidth 32

/-- `req_args_ok` (R131): the legal start addresses and word counts of a request. -/
def reqArgsOk (start : Half) (words : Byte) : Bool :=
  decide (start.toNat ≤ Config.startMax) && decide (1 ≤ words.toNat) && decide (words.toNat ≤ Config.wordsMax)

/-- The legal device addresses, 1..0xF7 (R24, R190). -/
def addrOk (a : Byte) : Bool := decide (1 ≤ a.toNat) && decide (a.toNat ≤ Config.addrMax)

/-- The legal byte lengths of a normal response, 1..0xFA (R155). -/
def byteLenOk (n : Byte) : Bool := decide (1 ≤ n.toNat) && decide (n.toNat ≤ Config.byteLenMax)

end Sys2Proof.Machine
end

