-- ==== Sys2Proof/Machine/State.lean ====
section
/-! DEFINITION. The state of MBCODEC (10_state.md R22), the result interface (R40), the model's queue of host events,
the reasons a step can stop, and the state after reset (70_reset_and_hazards.md R230). -/

namespace Sys2Proof.Machine

/-- The decoder's state DSTATE (R25). The codes 11-15 are never entered and cannot be held (R41, I8). -/
inductive DState where
  /-- No exchange armed since reset or the last DEC.ABORT. -/
  | idle
  /-- Waiting for response byte 0, the address. -/
  | awAddr
  /-- Waiting for response byte 1, the function code. -/
  | awFunc
  /-- Waiting for response byte 2, the byte length or exception code. -/
  | awB2
  /-- Waiting for a payload byte. -/
  | awPay
  /-- Normal response: waiting for the CRC low byte. -/
  | awCrcLo
  /-- Normal response: waiting for the CRC high byte. -/
  | awCrcHi
  /-- Exception response: waiting for the CRC low byte. -/
  | awXCrcLo
  /-- Exception response: waiting for the CRC high byte. -/
  | awXCrcHi
  /-- A valid normal response was received. -/
  | done
  /-- The exchange ended in a frame error. -/
  | err
  deriving DecidableEq, Repr

/-- The frame-error class ERRCLS (R34). The codes 7-15 are never written and cannot be held (I8). -/
inductive ErrCls where
  /-- NONE: no frame error. -/
  | noError
  /-- Received CRC ≠ DCRC. -/
  | crcMismatch
  /-- Byte length not in 1..0xFA. -/
  | frameSize
  /-- HDR0 ≠ DEVADDR. -/
  | addrMismatch
  /-- HDR1 is neither 0x03 nor 0x83. -/
  | badFunc
  /-- HDR2 ≠ EXPCNT. -/
  | lenMismatch
  /-- A valid exception response. -/
  | device
  deriving DecidableEq, Repr

/-- The result status RSTAT (R40). The codes 5-15 are never returned and cannot be held (I8). -/
inductive RStat where
  /-- The command executed. -/
  | ok
  /-- The word is not an encoding of any command (R201). -/
  | illegal
  /-- An operand is outside its legal range (R202). -/
  | arg
  /-- The decoder is busy (R204). -/
  | busy
  /-- DEC.RDBUF when DSTATE ≠ DONE (R204). -/
  | notReady
  deriving DecidableEq, Repr

/-- What the host does next (R244). DESIGN CHOICE (log 1): the block has no program, so the host's acts wait in the
state's `port`. -/
inductive HostEvent where
  /-- The host issues a 32-bit command word (R8). -/
  | command (w : Word)
  /-- The host removes one byte from the head of TX (R37). -/
  | takeTx
  /-- The external event reset (R230). -/
  | reset
  deriving DecidableEq, Repr

/-- A byte store: (index, byte) cells, indices strictly rising. Every index holds a byte: an unlisted one holds
`Config.pbufUnwritten`, which no cell repeats (R22, R36; log 3). -/
abbrev Memory := List Host.Cell

/-- The state of MBCODEC: the elements of R22, the latest command's result (R40) and the host's pending events. -/
structure State where
  /-- CRC, the CRC unit's accumulator (R23). -/
  crc : Half
  /-- DEVADDR, the device address (R24). -/
  devaddr : Byte
  /-- DSTATE, the decoder's state (R25). -/
  dstate : DState
  /-- EXPCNT, the byte count the open exchange requested (R28). -/
  expcnt : Byte
  /-- HDR0, response byte 0 (R29). -/
  hdr0 : Byte
  /-- HDR1, response byte 1 (R29). -/
  hdr1 : Byte
  /-- HDR2, response byte 2 (R29). -/
  hdr2 : Byte
  /-- DCRC, the decoder's running CRC (R30). -/
  dcrc : Half
  /-- PCNT, the payload bytes received (R32). -/
  pcnt : Byte
  /-- RCLO, the received CRC low byte (R33). -/
  rclo : Byte
  /-- ERRCLS, the frame-error class (R34). -/
  errcls : ErrCls
  /-- EXCODE, the exception code (R35). -/
  excode : Byte
  /-- STRAY, the sticky stray-byte flag (R31). -/
  stray : Bool
  /-- PBUF, the payload buffer (R36). -/
  pbuf : Memory
  /-- TX, the transmit stream, head first (R37). -/
  tx : List Byte
  /-- RSTAT of the latest command (R40; log 2). -/
  rstat : RStat
  /-- RVAL of the latest command (R40; log 2). -/
  rval : Word
  /-- What the host does next, oldest first: the model's own field (log 1). -/
  port : List HostEvent
  deriving DecidableEq, Repr

/-- The reasons a step stops with a fault. A command fault of R200 is none of them: it is a next state with its RSTAT.
No state that meets the invariants of R41 reaches it. -/
inductive Fault where
  /-- DEC.BYTE or DEC.RDBUF would access PBUF at an index outside 0..249, which does not exist (R36, R50). Only a
  state that R41 excludes (PCNT above 249) raises it. Safe (log 4). -/
  | pbufNoSuchByte (i : Nat)
  deriving DecidableEq, Repr

/-- The reasons a step is refused. -/
inductive Refusal where
  /-- Raised by an arm of `exec` whose instruction has no meaning yet: no arm of this model. Safe. -/
  | notModelled (mnemonic : String)
  deriving DecidableEq, Repr

/-- The outcome of a step of this machine. -/
abbrev Result := Host.Outcome State Fault Refusal

/-- The machine right after reset (R22, R230). Every byte of PBUF holds `Config.pbufUnwritten` (log 3), TX is empty as
it is before the first command (log 5), the result interface shows OK and 0 (log 2), and no host event is pending
(log 1). -/
def State.reset : State where
  crc := Config.crcSeed
  devaddr := Config.addrDefault
  dstate := .idle
  expcnt := 0#8
  hdr0 := 0#8
  hdr1 := 0#8
  hdr2 := 0#8
  dcrc := Config.crcSeed
  pcnt := 0#8
  rclo := 0#8
  errcls := .noError
  excode := 0#8
  stray := false
  pbuf := []
  tx := []
  rstat := .ok
  rval := 0#32
  port := []

end Sys2Proof.Machine
end

