-- ==== Sys2Proof/Machine/Flags.lean ====
section
/-! DEFINITION. The codes of the enumerated registers (R25, R34, R40), busy (R27), the STATUS word that carries every
flag of the block (R38, R39), and the names the spec gives error codes (R163, R206). -/

namespace Sys2Proof.Machine

/-- The code of DSTATE (R25). -/
def dstateCode : DState → BitVec 4
  | .idle => 0#4
  | .awAddr => 1#4
  | .awFunc => 2#4
  | .awB2 => 3#4
  | .awPay => 4#4
  | .awCrcLo => 5#4
  | .awCrcHi => 6#4
  | .awXCrcLo => 7#4
  | .awXCrcHi => 8#4
  | .done => 9#4
  | .err => 10#4

/-- The code of ERRCLS (R34). -/
def errclsCode : ErrCls → BitVec 4
  | .noError => 0#4
  | .crcMismatch => 1#4
  | .frameSize => 2#4
  | .addrMismatch => 3#4
  | .badFunc => 4#4
  | .lenMismatch => 5#4
  | .device => 6#4

/-- The code of RSTAT (R40). -/
def rstatCode : RStat → BitVec 4
  | .ok => 0#4
  | .illegal => 1#4
  | .arg => 2#4
  | .busy => 3#4
  | .notReady => 4#4

/-- An exchange is open: DSTATE is in 1..8 (R27). -/
def dstateBusy : DState → Bool
  | .idle | .done | .err => false
  | .awAddr | .awFunc | .awB2 | .awPay | .awCrcLo | .awCrcHi | .awXCrcLo | .awXCrcHi => true

/-- The decoder is busy (R27); it is quiescent when it is not. -/
def State.busy (s : State) : Bool := dstateBusy s.dstate

/-- `zext_32` of a flag. -/
def flagBit (f : Bool) : Word := (BitVec.ofBool f).setWidth 32

/-- The STATUS word (R38), composed from the state. -/
def State.status (s : State) : Word :=
  (dstateCode s.dstate).setWidth 32 ||| ((errclsCode s.errcls).setWidth 32 <<< 4) ||| (zextByte s.excode <<< 8)
    ||| (zextByte s.pcnt <<< 16) ||| (flagBit s.stray <<< 24) ||| (flagBit s.busy <<< 25)

/-- The name of an exception code (R163), for the host's use: no command returns it. -/
def exName (c : Byte) : String :=
  if c = 0x01#8 then "unsupported function"
  else if c = 0x02#8 then "bad address/length"
  else if c = 0x03#8 then "length too large"
  else if c = 0x04#8 then "read/write failure"
  else if c = 0x05#8 then "bad checksum from requester"
  else "unknown"

/-- The classes of the source's error taxonomy that the block records (R206). TimeoutError and ChannelError are the
host's. -/
inductive ErrorClass where
  | codecError | protocolError | deviceError
  deriving DecidableEq, Repr

/-- The class of a frame error in the source's taxonomy (R34, R206). -/
def errorClass : ErrCls → Option ErrorClass
  | .noError => none
  | .crcMismatch | .frameSize => some .codecError
  | .addrMismatch | .badFunc | .lenMismatch => some .protocolError
  | .device => some .deviceError

end Sys2Proof.Machine
end

