-- ==== Sys2Proof/Machine/Ops.lean ====
section
/-! DEFINITION. The named operations of MBCODEC: the payload buffer, the result interface and command faults, TX and
the request frame, frame errors, arming and clearing the decoder, reset, and taking the host's next event. -/

namespace Sys2Proof.Machine

/-! ### The payload buffer -/

/-- The byte at an index; an unlisted one holds `Config.pbufUnwritten` (log 3). -/
def Memory.read : Memory → Nat → Byte
  | [], _ => Config.pbufUnwritten
  | (k, v) :: m, a => if k = a then v else Memory.read m a

/-- Lists a byte, keeping the indices strictly rising. -/
def Memory.insert : Memory → Nat → Byte → Memory
  | [], a, b => [(a, b)]
  | (k, v) :: m, a, b =>
    if a < k then (a, b) :: (k, v) :: m
    else if a = k then (a, b) :: m
    else (k, v) :: Memory.insert m a b

/-- Takes an index out of the list. -/
def Memory.erase : Memory → Nat → Memory
  | [], _ => []
  | (k, v) :: m, a => if k = a then Memory.erase m a else (k, v) :: Memory.erase m a

/-- Writes a byte, keeping the canonical form: the byte that an unlisted index holds is not listed. -/
def Memory.write (m : Memory) (a : Nat) (b : Byte) : Memory :=
  if b = Config.pbufUnwritten then m.erase a else m.insert a b

/-- Every index of the list is above `lo`, rising and inside PBUF, and no byte is the one an unlisted index holds. -/
def Memory.wfFrom : Option Nat → Memory → Bool
  | _, [] => true
  | lo, (k, v) :: m =>
    decide (∀ l ∈ lo, l < k) && decide (k < Config.pbufSize) && decide (v ≠ Config.pbufUnwritten)
      && Memory.wfFrom (some k) m

/-- The canonical form: indices strictly rising and inside PBUF (R36), and no cell that repeats what an unlisted index
holds. -/
def Memory.wf (m : Memory) : Bool := Memory.wfFrom none m

/-- `PBUF[i]` (R12, R36): byte i, for i in 0..249. Outside there is no byte (log 4). -/
def loadPbuf (s : State) (i : Nat) : Except Fault Byte :=
  if i < Config.pbufSize then .ok (s.pbuf.read i) else .error (.pbufNoSuchByte i)

/-- `PBUF[i] <- b` (R12, R36). Outside 0..249 there is no byte (log 4). -/
def storePbuf (s : State) (i : Nat) (b : Byte) : Except Fault State :=
  if i < Config.pbufSize then .ok { s with pbuf := s.pbuf.write i b }
  else .error (.pbufNoSuchByte i)

/-! ### Results and command faults -/

/-- `result(s, v)` (R12): the command ends with a status and a value. -/
def State.result (s : State) (r : RStat) (v : Word) : State := { s with rstat := r, rval := v }

/-- Taking a command fault, `fail(s)` (R12, R200, R203): RSTAT says which, RVAL is 0, and nothing else changes.
Nothing is saved and no vector is taken (R211), so there is no return from it. -/
def State.fail (s : State) (r : RStat) : State := s.result r 0#32

/-- The command fault of a word that encodes no command (R77, R78, R201). -/
def illegalWord (s : State) : State := s.fail .illegal

/-! ### The transmit stream and the request frame -/

/-- `emit` of a sequence of bytes, in order (R12, R56). -/
def State.emit (s : State) (bs : List Byte) : State := { s with tx := s.tx ++ bs }

/-- The host removes the byte at the head of TX, if there is one (R37; log 7). -/
def State.takeTx (s : State) : State := { s with tx := s.tx.drop 1 }

/-- Bytes 0-5 of the request frame (R79, R130). -/
def requestHeader (a : Byte) (start : Half) (words : Byte) : List Byte :=
  [a, Config.funcRead, hi8 start, lo8 start, 0x00#8, words]

/-- `build_read_request` (R130): the header and its CRC, low byte first. -/
def buildReadRequest (a : Byte) (start : Half) (words : Byte) : List Byte :=
  requestHeader a start words ++ crcBytes (requestHeader a start words)

/-- Bytes 6 and 7 of a frame as one value, f[7]:f[6]. -/
def frameCrc (f : List Byte) : Half := hiLo (f.getD 7 0#8) (f.getD 6 0#8)

/-- Emits a request and returns its CRC (R132, R133). -/
def sendRequest (s : State) (start : Half) (words : Byte) : State :=
  (s.emit (buildReadRequest s.devaddr start words)).result .ok
    (zextHalf (frameCrc (buildReadRequest s.devaddr start words)))

/-! ### The decoder -/

/-- `arm(words)` (R134). PBUF and DEVADDR are not written. -/
def State.arm (s : State) (words : Byte) : State :=
  { s with
    expcnt := 2#8 * words, hdr0 := 0#8, hdr1 := 0#8, hdr2 := 0#8, dcrc := Config.crcSeed, pcnt := 0#8, rclo := 0#8,
    errcls := .noError, excode := 0#8, stray := false, dstate := .awAddr }

/-- The decoder's registers but PBUF return to their reset values (R164). -/
def State.clearDecoder (s : State) : State :=
  { s with
    dstate := .idle, expcnt := 0#8, hdr0 := 0#8, hdr1 := 0#8, hdr2 := 0#8, dcrc := Config.crcSeed, pcnt := 0#8,
    rclo := 0#8, errcls := .noError, excode := 0#8, stray := false }

/-- `frame_error(cls)` (R152, R211): the exchange ends in ERR. Leaving ERR is `State.arm`, `State.clearDecoder` or
reset. -/
def State.frameError (s : State) (cls : ErrCls) : State := { s with errcls := cls, dstate := .err }

/-- DCRC advances by one received byte (R30). -/
def State.advanceDcrc (s : State) (b : Byte) : State := { s with dcrc := crcUpdate s.dcrc b }

/-! ### The host's events -/

/-- The external event reset (R230, R231): every element of R22 takes its reset value, TX keeps its bytes, and the
host's later events stay pending. The result interface returns to its value at reset (log 6). -/
def State.applyReset (s : State) : State := { State.reset with tx := s.tx, port := s.port }

/-- The host's next event, and the state with it taken from the port (R59). -/
def nextEvent (s : State) : Option (HostEvent × State) :=
  match s.port with
  | [] => none
  | e :: rest => some (e, { s with port := rest })

end Sys2Proof.Machine
end

