-- ==== Sys2Proof/Machine/Cfg.lean ====
section
/-! DEFINITION. The meanings of the configuration commands (43_config.md). -/

namespace Sys2Proof.Machine

/-- CFG.SETADDR a (R190): BUSY is checked before ARG (R208). -/
def execCfgSetaddr (a : Byte) (s : State) : Result :=
  if s.busy then .next (s.fail .busy)
  else if addrOk a then .next ({ s with devaddr := a }.result .ok (zextByte a))
  else .next (s.fail .arg)

/-- CFG.GETADDR (R191): legal in every decoder state. -/
def execCfgGetaddr (s : State) : Result := .next (s.result .ok (zextByte s.devaddr))

end Sys2Proof.Machine
end

