-- ==== Sys2Proof/Machine/Crc.lean ====
section
/-! DEFINITION. The meanings of the CRC unit's commands (40_crc.md section 2). -/

namespace Sys2Proof.Machine

/-- CRC.INIT (R106). -/
def execCrcInit (s : State) : Result :=
  .next ({ s with crc := Config.crcSeed }.result .ok (zextHalf Config.crcSeed))

/-- CRC.BYTE b (R107): RVAL is the updated CRC. -/
def execCrcByte (b : Byte) (s : State) : Result :=
  .next ({ s with crc := crcUpdate s.crc b }.result .ok (zextHalf (crcUpdate s.crc b)))

/-- CRC.READ (R108). -/
def execCrcRead (s : State) : Result := .next (s.result .ok (zextHalf s.crc))

/-- CRC.CHECK lo, hi (R109): a mismatch is no fault. -/
def execCrcCheck (lo hi : Byte) (s : State) : Result :=
  .next (s.result .ok (if s.crc = hiLo hi lo then 1#32 else 0#32))

end Sys2Proof.Machine
end

