-- ==== Sys2Proof/Machine/Dec.lean ====
section
/-! DEFINITION. The frame decoder: what each state does with a received byte (42_frame_decoder.md section 2) and the
meanings of the decoder's commands. -/

namespace Sys2Proof.Machine

/-- `rx_addr` (R153): no check is made yet. -/
def rxAddr (b : Byte) (s : State) : State := { s.advanceDcrc b with hdr0 := b, dstate := .awFunc }

/-- `rx_func` (R154): no check is made yet. -/
def rxFunc (b : Byte) (s : State) : State := { s.advanceDcrc b with hdr1 := b, dstate := .awB2 }

/-- The header checks of R155, on a complete header, the first failing check winning. -/
def checkHeader (s : State) : State :=
  if s.hdr0 ≠ s.devaddr then s.frameError .addrMismatch
  else if s.hdr1 = Config.funcException then { s with dstate := .awXCrcLo }
  else if s.hdr1 ≠ Config.funcRead then s.frameError .badFunc
  else if byteLenOk s.hdr2 then { s with pcnt := 0#8, dstate := .awPay }
  else s.frameError .frameSize

/-- `rx_b2` (R155). -/
def rxB2 (b : Byte) (s : State) : State := checkHeader { s.advanceDcrc b with hdr2 := b }

/-- What `rx_pay` does once the byte is stored (R156). -/
def countPayload (s : State) : State :=
  { s with pcnt := s.pcnt + 1#8, dstate := if s.pcnt + 1#8 = s.hdr2 then .awCrcLo else s.dstate }

/-- `rx_pay` (R156). -/
def rxPay (b : Byte) (s : State) : Except Fault State :=
  match storePbuf s s.pcnt.toNat b with
  | .ok t => .ok (countPayload (t.advanceDcrc b))
  | .error f => .error f

/-- `rx_crclo` (R157). -/
def rxCrcLo (b : Byte) (s : State) : State := { s with rclo := b, dstate := .awCrcHi }

/-- `rx_crchi` (R158): the CRC before the length. -/
def rxCrcHi (b : Byte) (s : State) : State :=
  if hiLo b s.rclo ≠ s.dcrc then s.frameError .crcMismatch
  else if s.hdr2 ≠ s.expcnt then s.frameError .lenMismatch
  else { s with dstate := .done }

/-- `rx_xcrclo` (R159). -/
def rxXCrcLo (b : Byte) (s : State) : State := { s with rclo := b, dstate := .awXCrcHi }

/-- `rx_xcrchi` (R160): the exception code is kept only when the CRC is good. -/
def rxXCrcHi (b : Byte) (s : State) : State :=
  if hiLo b s.rclo ≠ s.dcrc then s.frameError .crcMismatch
  else { s with excode := s.hdr2 }.frameError .device

/-- `stray` (R161): the byte is discarded. -/
def rxStray (_b : Byte) (s : State) : State := { s with stray := true }

/-- The case analysis of R151: what the decoder does with a received byte. -/
def receive (b : Byte) (s : State) : Except Fault State :=
  match s.dstate with
  | .idle => .ok (rxStray b s)
  | .awAddr => .ok (rxAddr b s)
  | .awFunc => .ok (rxFunc b s)
  | .awB2 => .ok (rxB2 b s)
  | .awPay => rxPay b s
  | .awCrcLo => .ok (rxCrcLo b s)
  | .awCrcHi => .ok (rxCrcHi b s)
  | .awXCrcLo => .ok (rxXCrcLo b s)
  | .awXCrcHi => .ok (rxXCrcHi b s)
  | .done => .ok (rxStray b s)
  | .err => .ok (rxStray b s)

/-- DEC.BYTE b (R151): RVAL is STATUS after the step. A frame error is no command fault (R205). -/
def execDecByte (b : Byte) (s : State) : Result :=
  match receive b s with
  | .ok t => .next (t.result .ok t.status)
  | .error f => .fault f

/-- DEC.ABORT (R164): legal in every state. -/
def execDecAbort (s : State) : Result := .next (s.clearDecoder.result .ok 0#32)

/-- DEC.RDBUF i (R165): NOT_READY is checked before ARG (R208). -/
def execDecRdbuf (i : Byte) (s : State) : Result :=
  if s.dstate ≠ .done then .next (s.fail .notReady)
  else if s.pcnt.toNat ≤ i.toNat then .next (s.fail .arg)
  else
    match loadPbuf s i.toNat with
    | .ok b => .next (s.result .ok (zextByte b))
    | .error f => .fault f

/-- DEC.STATUS (R166). -/
def execDecStatus (s : State) : Result := .next (s.result .ok s.status)

end Sys2Proof.Machine
end

