-- ==== Sys2Proof/Machine/Enc.lean ====
section
/-! DEFINITION. The meanings of the frame encoder's commands (41_frame_encoder.md section 2). -/

namespace Sys2Proof.Machine

/-- ENC.RD start, words (R132): the decoder's state is never checked. -/
def execEncRd (start : Half) (words : Byte) (s : State) : Result :=
  if reqArgsOk start words then .next (sendRequest s start words) else .next (s.fail .arg)

/-- XCH.RD start, words (R133): BUSY is checked before ARG (R208). -/
def execXchRd (start : Half) (words : Byte) (s : State) : Result :=
  if s.busy then .next (s.fail .busy)
  else if reqArgsOk start words then .next ((sendRequest s start words).arm words)
  else .next (s.fail .arg)

end Sys2Proof.Machine
end

