-- ==== Sys2Proof/Machine/Dispatch.lean ====
section
/-! DEFINITION. One arm per command of MBCODEC (30_encoding.md R75), each one call of its meaning. -/

namespace Sys2Proof.Machine

/-- The effect of a decoded command. -/
def exec (i : Instr) (s : State) : Host.Outcome State Fault Refusal :=
  match i with
  | .crcInit => Sys2Proof.Machine.execCrcInit s
  | .crcByte b => Sys2Proof.Machine.execCrcByte b s
  | .crcRead => Sys2Proof.Machine.execCrcRead s
  | .crcCheck lo hi => Sys2Proof.Machine.execCrcCheck lo hi s
  | .encRd start words => Sys2Proof.Machine.execEncRd start words s
  | .xchRd start words => Sys2Proof.Machine.execXchRd start words s
  | .decByte b => Sys2Proof.Machine.execDecByte b s
  | .decAbort => Sys2Proof.Machine.execDecAbort s
  | .decRdbuf k => Sys2Proof.Machine.execDecRdbuf k s
  | .decStatus => Sys2Proof.Machine.execDecStatus s
  | .cfgSetaddr a => Sys2Proof.Machine.execCfgSetaddr a s
  | .cfgGetaddr => Sys2Proof.Machine.execCfgGetaddr s

end Sys2Proof.Machine
end

