-- ==== Sys2Proof/Machine/Step.lean ====
section
/-! DEFINITION. One step of MBCODEC: the host's next event takes effect (20_memory.md R59). With none pending the block
idles and holds its state (60_exceptions.md R217). -/

namespace Sys2Proof.Machine

/-- A command word is decoded and executed, or faults ILLEGAL (R76-R78). -/
def runWord (w : Word) (s : State) : Host.Outcome State Fault Refusal :=
  match decode w with
  | some i => exec i s
  | none => .next (illegalWord s)

/-- One step of the block. -/
def step (s : State) : Host.Outcome State Fault Refusal :=
  match nextEvent s with
  | none => .next s
  | some (.command w, t) => runWord w t
  | some (.takeTx, t) => .next t.takeTx
  | some (.reset, t) => .next t.applyReset

/-- The state in which the host's next act is to issue the opcode-table word `w` of `nbits` bits (log 12). -/
def State.withFetchWord (s : State) (nbits w : Nat) : State :=
  { s with port := .command (tableWord nbits w) :: s.port }

end Sys2Proof.Machine
end

