-- ==== Sys2Proof/Machine/Pseudo.lean ====
section
/-! DEFINITION. The pseudo-instructions, each a list of commands (30_encoding.md R84). They have no encoding of their
own. -/

namespace Sys2Proof.Machine

/-- `CRC.SEQ b0, ..., bn-1` (R84). -/
def crcSeq (bs : List Byte) : List Instr := .crcInit :: bs.map .crcByte

/-- `DEC.FEED b0, ..., bn-1` (R84). -/
def decFeed (bs : List Byte) : List Instr := bs.map .decByte

/-- `READREG start, words, r0, ..., rm-1` (R84). -/
def readReg (start : Half) (words : Byte) (r : List Byte) : List Instr := .xchRd start words :: decFeed r

end Sys2Proof.Machine
end

