-- ==== Sys2Proof/WellFormed.lean ====
section
/-! DEFINITION. Which source commands spell a word (30_encoding.md R83): the operands' number and encodable ranges.
An `Instr` carries operands of their fields' widths, so every `Instr` is well formed; the checks are about source
commands, whose operands are numbers of any size. -/

namespace Sys2Proof

/-- The exclusive upper bounds of a mnemonic's operands, in the order of R83: format N has none, format B one byte,
format H two bytes, format R a 16-bit start and an 8-bit word count. -/
def Mnemonic.operandBounds : Mnemonic → List Nat
  | .crcInit | .crcRead | .decAbort | .decStatus | .cfgGetaddr => []
  | .crcByte | .decByte | .decRdbuf | .cfgSetaddr => [256]
  | .crcCheck => [256, 256]
  | .encRd | .xchRd => [65536, 256]

/-- Every operand lies below its bound, and there are as many operands as bounds. -/
def withinBounds : List Nat → List Nat → Bool
  | [], [] => true
  | x :: xs, b :: bs => decide (x < b) && withinBounds xs bs
  | _, _ => false

/-- The source command spells a word (R83): "An operand outside its field's encodable range is an assembly error". -/
def SourceCommand.wellFormed (c : SourceCommand) : Bool :=
  withinBounds c.operands c.mnemonic.operandBounds

/-- A command is well formed when its source form spells a word. -/
def Instr.wellFormed (i : Instr) : Bool := i.toSource.wellFormed

end Sys2Proof
end

