-- ==== Sys2Proof/Machine/Asm.lean ====
section
/-! DEFINITION. The assembler syntax of MBCODEC (30_encoding.md R83, R84), over lists of characters. DESIGN CHOICE
(log 10): blanks and tabs separate and may stand around operands, an empty or comment-only line spells no command, and
a hexadecimal digit may be a letter of either case. -/

namespace Sys2Proof.Machine

/-- The mnemonic as R75 spells it. -/
def mnemonicName : Mnemonic → List Char
  | .crcInit => "CRC.INIT".toList
  | .crcByte => "CRC.BYTE".toList
  | .crcRead => "CRC.READ".toList
  | .crcCheck => "CRC.CHECK".toList
  | .encRd => "ENC.RD".toList
  | .xchRd => "XCH.RD".toList
  | .decByte => "DEC.BYTE".toList
  | .decAbort => "DEC.ABORT".toList
  | .decRdbuf => "DEC.RDBUF".toList
  | .decStatus => "DEC.STATUS".toList
  | .cfgSetaddr => "CFG.SETADDR".toList
  | .cfgGetaddr => "CFG.GETADDR".toList

/-- A number as a byte operand, if the field can hold it (R83). -/
def byteOperand (n : Nat) : Option Byte := if n < 256 then some (BitVec.ofNat 8 n) else none

/-- A number as a 16-bit operand, if the field can hold it (R83). -/
def halfOperand (n : Nat) : Option Half := if n < 65536 then some (BitVec.ofNat 16 n) else none

/-- The command that a source command spells; none is an assembly error (R83). -/
def assembleCommand (c : SourceCommand) : Option Instr :=
  match c.mnemonic, c.operands with
  | .crcInit, [] => some .crcInit
  | .crcByte, [b] => (byteOperand b).map .crcByte
  | .crcRead, [] => some .crcRead
  | .crcCheck, [lo, hi] => (byteOperand lo).bind fun l => (byteOperand hi).map fun h => .crcCheck l h
  | .encRd, [start, words] => (halfOperand start).bind fun a => (byteOperand words).map fun w => .encRd a w
  | .xchRd, [start, words] => (halfOperand start).bind fun a => (byteOperand words).map fun w => .xchRd a w
  | .decByte, [b] => (byteOperand b).map .decByte
  | .decAbort, [] => some .decAbort
  | .decRdbuf, [i] => (byteOperand i).map .decRdbuf
  | .decStatus, [] => some .decStatus
  | .cfgSetaddr, [a] => (byteOperand a).map .cfgSetaddr
  | .cfgGetaddr, [] => some .cfgGetaddr
  | _, _ => none

/-- A character that separates. -/
def isBlank (c : Char) : Bool := c == ' ' || c == '\t'

/-- The characters without blanks at either end. -/
def trimBlanks (cs : List Char) : List Char := ((cs.dropWhile isBlank).reverse.dropWhile isBlank).reverse

/-- The parts between commas. -/
def splitCommas : List Char → List (List Char)
  | [] => [[]]
  | c :: cs =>
    if c = ',' then [] :: splitCommas cs
    else
      match splitCommas cs with
      | [] => [[c]]
      | part :: parts => (c :: part) :: parts

/-- The value of a digit, at most 15. -/
def digitValue (c : Char) : Option Nat :=
  if '0'.toNat ≤ c.toNat ∧ c.toNat ≤ '9'.toNat then some (c.toNat - '0'.toNat)
  else if 'A'.toNat ≤ c.toNat ∧ c.toNat ≤ 'F'.toNat then some (c.toNat - 'A'.toNat + 10)
  else if 'a'.toNat ≤ c.toNat ∧ c.toNat ≤ 'f'.toNat then some (c.toNat - 'a'.toNat + 10)
  else none

/-- The number that a run of digits spells, after the value read so far. -/
def digitsFrom (base : Nat) : Nat → List Char → Option Nat
  | n, [] => some n
  | n, c :: cs =>
    match digitValue c with
    | some d => if d < base then digitsFrom base (n * base + d) cs else none
    | none => none

/-- A numeric operand: "decimal, or hexadecimal with the prefix 0x" (R83). DESIGN CHOICE (log 16): this holds of the
pseudo-instructions (R84) too, so the bare hexadecimal bytes that the spec writes in their examples, as in
`DEC.FEED 01, 83, 02, C0, F1`, are not source text as they stand: 83 is decimal, and C0 is an error. -/
def parseNumber : List Char → Option Nat
  | [] => none
  | '0' :: 'x' :: [] => none
  | '0' :: 'x' :: ds => digitsFrom 16 0 ds
  | ds => digitsFrom 10 0 ds

/-- The operands of a line. -/
def parseOperands (cs : List Char) : Option (List Nat) :=
  if cs.isEmpty then some [] else (splitCommas cs).mapM fun part => parseNumber (trimBlanks part)

/-- The commands of a pseudo-instruction or a command (R83, R84), given its name in capitals and its operands. R84
states the case of no bytes for CRC.SEQ alone. DESIGN CHOICE (log 17): DEC.FEED without operands spells no command, and
READREG without response bytes is its XCH.RD alone. -/
def assembleNamed (name : List Char) (operands : List Nat) : Option (List Instr) :=
  if name = "CRC.SEQ".toList then (operands.mapM byteOperand).map crcSeq
  else if name = "DEC.FEED".toList then (operands.mapM byteOperand).map decFeed
  else if name = "READREG".toList then
    match operands with
    | start :: words :: r =>
      (halfOperand start).bind fun a => (byteOperand words).bind fun w => (r.mapM byteOperand).map fun bs => readReg a w bs
    | _ => none
  else
    match opcodeMap.find? (fun row => mnemonicName row.mnemonic == name) with
    | some row => (assembleCommand ⟨row.mnemonic, operands⟩).map fun i => [i]
    | none => none

/-- One source line (R83): a semicolon begins a comment, the mnemonic is case-insensitive, and the operands are
separated by commas. `none` is an assembly error. -/
def assembleLine (line : List Char) : Option (List Instr) :=
  let body := trimBlanks (line.takeWhile (· != ';'))
  if body.isEmpty then some []
  else
    (parseOperands (trimBlanks (body.dropWhile fun c => !isBlank c))).bind fun operands =>
      assembleNamed ((body.takeWhile fun c => !isBlank c).map Char.toUpper) operands

/-- The words of a source text, line by line. -/
def assemble (lines : List (List Char)) : Option (List Word) :=
  (lines.mapM assembleLine).map fun parts => parts.flatten.map encode

end Sys2Proof.Machine
end

