-- ==== Sys2Proof/Safety.lean ====
section
/-! DEFINITION. The terms claims are stated in: running a sequence of commands, the invariants of reachable states
(10_state.md R41), what the running CRC has covered (R30), and the outcome table of a response (42_frame_decoder.md
R162). -/

namespace Sys2Proof.Machine

/-- Commands issued one after the other (R59), stopping at the first fault or refusal. -/
def execAll : List Instr → State → Host.Outcome State Fault Refusal
  | [], s => .next s
  | i :: is, s =>
    match exec i s with
    | .next t => execAll is t
    | .fault f => .fault f
    | .refused r => .refused r

/-- The payload bytes PBUF[0..n-1] (R36). -/
def payloadBytes (m : Memory) (n : Nat) : List Byte := (List.range n).map m.read

/-- The decoder waits for, or has received, bytes after a normal response's header. -/
def dstateInPayload : DState → Bool
  | .awPay | .awCrcLo | .awCrcHi | .done => true
  | .idle | .awAddr | .awFunc | .awB2 | .awXCrcLo | .awXCrcHi | .err => false

/-- The invariants (b) to (i) of R41, and PBUF is canonical (R36). Invariant (a) holds of every state, since
DSTATE is an enumeration (I8, log 8). -/
structure Inv (s : State) : Prop where
  /-- R41 (b). -/
  addrLegal : 1 ≤ s.devaddr.toNat ∧ s.devaddr.toNat ≤ 0xF7
  /-- R41 (c). -/
  errIffClass : s.errcls ≠ .noError ↔ s.dstate = .err
  /-- R41 (d). -/
  codeOnlyDevice : s.excode ≠ 0#8 → s.errcls = .device
  /-- R41 (e). -/
  countRequested : s.busy = true ∨ s.dstate = .done →
    s.expcnt.toNat % 2 = 0 ∧ 2 ≤ s.expcnt.toNat ∧ s.expcnt.toNat ≤ 250
  /-- R41 (f). -/
  inPayload : s.dstate = .awPay → 1 ≤ s.hdr2.toNat ∧ s.hdr2.toNat ≤ 250 ∧ s.pcnt.toNat < s.hdr2.toNat
  /-- R41 (g). -/
  afterPayload : s.dstate = .awCrcLo ∨ s.dstate = .awCrcHi ∨ s.dstate = .done →
    s.pcnt = s.hdr2 ∧ 1 ≤ s.hdr2.toNat ∧ s.hdr2.toNat ≤ 250
  /-- R41 (g). -/
  doneCount : s.dstate = .done → s.pcnt = s.expcnt
  /-- R41 (h). -/
  idleCount : s.dstate = .idle → s.pcnt = 0#8
  /-- R41 (i). -/
  strayQuiet : s.stray = true → s.dstate = .idle ∨ s.dstate = .done ∨ s.dstate = .err
  /-- R36: PBUF's cells are canonical and inside the buffer. -/
  bufferForm : s.pbuf.wf = true

/-- Two states that may differ in PBUF alone, and there only in bytes that the open exchange has not written: outside
the payload states every byte of PBUF is such a byte, in them every byte at or above PCNT (R36, I1). -/
structure SamePayload (s t : State) : Prop where
  rest : t = { s with pbuf := t.pbuf }
  payload : dstateInPayload s.dstate = true → ∀ i, i < s.pcnt.toNat → s.pbuf.read i = t.pbuf.read i

/-- The response bytes that DCRC covers in a decoder state (R30): those received so far in the exchange, not counting
the trailing CRC bytes. None once the exchange has no such bytes to compare, in IDLE and ERR. -/
def coveredBytes (s : State) : Option (List Byte) :=
  match s.dstate with
  | .awAddr => some []
  | .awFunc => some [s.hdr0]
  | .awB2 => some [s.hdr0, s.hdr1]
  | .awXCrcLo | .awXCrcHi => some [s.hdr0, s.hdr1, s.hdr2]
  | .awPay | .awCrcLo | .awCrcHi | .done => some ([s.hdr0, s.hdr1, s.hdr2] ++ payloadBytes s.pbuf s.pcnt.toNat)
  | .idle | .err => none

/-- The running CRC is the CRC of the bytes it covers (R30, R102). -/
def CrcTracks (s : State) : Prop := ∀ bs, coveredBytes s = some bs → s.dcrc = crc16 bs

/-- The header that led to the decoder's state passed the checks of R155: in a normal response after its header the
function code is 0x03, in an exception response 0x83, and while busy the address is DEVADDR. -/
structure HeaderChecked (s : State) : Prop where
  normal : dstateInPayload s.dstate = true → s.hdr1 = 0x03#8
  exception : s.dstate = .awXCrcLo ∨ s.dstate = .awXCrcHi → s.hdr1 = 0x83#8
  address : (dstateInPayload s.dstate = true ∧ s.dstate ≠ .done) ∨ s.dstate = .awXCrcLo ∨ s.dstate = .awXCrcHi →
    s.hdr0 = s.devaddr

/-- How an exchange ended: the index of the response byte that ended it, and the record it left. -/
structure Verdict where
  endsAt : Nat
  dstate : DState
  errcls : ErrCls
  excode : Byte
  pcnt : Nat
  deriving DecidableEq, Repr

/-- The outcome table of R162 for a response to a request of `words` words from the device at `a`; none where the
response is too short to reach the byte that ends the exchange. PCNT is 0 where the exchange ends before any payload
byte (R155, R160) and the byte length where the payload was received (R156, R152). -/
def responseVerdict (a words : Byte) : List Byte → Option Verdict
  | r0 :: r1 :: r2 :: rest =>
    if r0 ≠ a then some ⟨2, .err, .addrMismatch, 0#8, 0⟩
    else if r1 = 0x83#8 then
      match rest with
      | r3 :: r4 :: _ =>
        if hiLo r4 r3 ≠ crc16 [r0, r1, r2] then some ⟨4, .err, .crcMismatch, 0#8, 0⟩
        else some ⟨4, .err, .device, r2, 0⟩
      | _ => none
    else if r1 ≠ 0x03#8 then some ⟨2, .err, .badFunc, 0#8, 0⟩
    else if r2.toNat = 0 ∨ 0xFA < r2.toNat then some ⟨2, .err, .frameSize, 0#8, 0⟩
    else
      match rest.drop r2.toNat with
      | lo :: hi :: _ =>
        if hiLo hi lo ≠ crc16 (r0 :: r1 :: r2 :: rest.take r2.toNat) then
          some ⟨4 + r2.toNat, .err, .crcMismatch, 0#8, r2.toNat⟩
        else if r2.toNat ≠ 2 * words.toNat then some ⟨4 + r2.toNat, .err, .lenMismatch, 0#8, r2.toNat⟩
        else some ⟨4 + r2.toNat, .done, .noError, 0#8, r2.toNat⟩
      | _ => none
  | _ => none

/-- A safe step: the block goes on. -/
def Runs (s : State) : Prop := ∃ t, step s = .next t

/-- The word faults ILLEGAL in every state: RSTAT is ILLEGAL, RVAL is 0, and nothing but the word's place in the port
changes (R77, R201, R203). -/
def FaultsIllegal (w : Word) : Prop :=
  ∀ s rest, s.port = .command w :: rest → step s = .next { s with port := rest, rstat := .illegal, rval := 0#32 }

end Sys2Proof.Machine
end

