-- ==== Sys2Proof/Certificates/Slice0/Obligations.lean ====
section
/-! DEFINITION. The statements about MBCODEC for the provers. A result statement gives the whole next state as a record
update, so that it is the command's completion and its frame at once: every element it does not name is unchanged.
Where a statement runs a step, the command word or the reset comes from the head of the port, which is the model's own
way in (log 1). -/

open Sys2Proof Sys2Proof.Machine

/-! ### Encoding -/

/-- Decoding the word of a well-formed command gives the command back (30_encoding.md R70-R76). -/
def Obligations.DecodeOfEncodeIsTheCommand : Prop :=
  ∀ i : Instr, i.wellFormed = true → decode (encode i) = some i

/-- A word that decodes is the word of the command it decodes to: every word is one exact command or ILLEGAL
(30_encoding.md R76, R77; 92_eei_decisions.md D2). -/
def Obligations.EncodeOfDecodeIsTheWord : Prop :=
  ∀ (w : Word) (i : Instr), decode w = some i → encode i = w

/-- R76: no two rows of the opcode map match one word, and decoding answers exactly what the one matching row builds,
in whatever order the rows are searched. -/
def Obligations.OpcodeRowsNeverOverlap : Prop :=
  (∀ w r q, r ∈ opcodeMap → q ∈ opcodeMap → rowMatches r w = true → rowMatches q w = true →
    r.mnemonic = q.mnemonic) ∧
  (∀ w i, decode w = some i ↔ ∃ r ∈ opcodeMap, w &&& r.mask = r.pattern ∧ r.build w = i) ∧
  (∀ rows : List OpcodeRow, rows.Perm opcodeMap → ∀ w, decodeRows rows w = decode w)

/-- R77 and R78: a word with an unassigned OPC, or with an assigned OPC and reserved bits not all 0, faults ILLEGAL
(code 1) with no effect; every other word decodes. The all-zero word is such a word. -/
def Obligations.ReservedAndUnassignedWordsFault : Prop :=
  ∀ w : Word, ∀ opc, opc = w.toNat / 2 ^ 24 →
    ((opc ∉ [0x01, 0x02, 0x03, 0x04, 0x10, 0x11, 0x20, 0x21, 0x22, 0x23, 0x30, 0x31] ∨
      (opc ∈ [0x01, 0x03, 0x21, 0x23, 0x31] ∧ w.toNat % 2 ^ 24 ≠ 0) ∨
      (opc ∈ [0x02, 0x20, 0x22, 0x30] ∧ w.toNat / 2 ^ 8 % 2 ^ 16 ≠ 0) ∨
      (opc ∈ [0x04] ∧ w.toNat / 2 ^ 16 % 2 ^ 8 ≠ 0)) →
      FaultsIllegal w ∧ rstatCode .illegal = 1#4) ∧
    (opc ∈ [0x01, 0x02, 0x03, 0x04, 0x10, 0x11, 0x20, 0x21, 0x22, 0x23, 0x30, 0x31] →
      (opc ∈ [0x01, 0x03, 0x21, 0x23, 0x31] → w.toNat % 2 ^ 24 = 0) →
      (opc ∈ [0x02, 0x20, 0x22, 0x30] → w.toNat / 2 ^ 8 % 2 ^ 16 = 0) →
      (opc ∈ [0x04] → w.toNat / 2 ^ 16 % 2 ^ 8 = 0) →
      (decode w).isSome = true)

/-- The words R83 spells out, of each family, decode to their commands (a sanity statement). -/
def Obligations.SpelledWordsDecode : Prop :=
  decode 0x02000001#32 = some (.crcByte 0x01#8) ∧
  decode 0x040008A4#32 = some (.crcCheck 0xA4#8 0x08#8) ∧
  decode 0x10000A01#32 = some (.encRd 0x000A#16 0x01#8) ∧
  decode 0x1101000A#32 = some (.xchRd 0x0100#16 0x0A#8) ∧
  decode 0x20000083#32 = some (.decByte 0x83#8) ∧
  decode 0x30000011#32 = some (.cfgSetaddr 0x11#8)

/-- R83: a source command assembles exactly when its operands are within their fields' encodable ranges, and a command
has one source form. -/
def Obligations.AssemblyAcceptsEncodableOperands : Prop :=
  (∀ c : SourceCommand, (assembleCommand c).isSome = c.wellFormed) ∧
  (∀ (c : SourceCommand) (i : Instr), assembleCommand c = some i → c = i.toSource)

/-! ### The step -/

/-- A step takes the command word at the head of the port and runs the command it decodes to on the state without it
(R8, R59, R76). -/
def Obligations.StepRunsDecodedCommand : Prop :=
  ∀ (s : State) (w : Word) (rest : List HostEvent) (i : Instr),
    s.port = .command w :: rest → decode w = some i → i.wellFormed = true →
    step s = exec i { s with port := rest }

/-- With no host event pending the block idles and holds its state (R217), and the host removing a byte takes the head
of TX and changes nothing else (R37). The port and its events are the model's own choice (log 1, log 7). -/
def Obligations.IdleAndTransmitSteps : Prop :=
  (∀ s : State, s.port = [] → step s = .next s) ∧
  (∀ s rest, s.port = .takeTx :: rest → s.tx = [] → step s = .next { s with port := rest }) ∧
  (∀ s rest b bs, s.port = .takeTx :: rest → s.tx = b :: bs → step s = .next { s with port := rest, tx := bs })

/-- R230 and R231: reset sets every element to its reset value and leaves TX as it is; afterwards STATUS is 0,
CFG.GETADDR returns 1 and CRC.READ returns 0xFFFF. Nothing is said of PBUF, which is unspecified. -/
def Obligations.ResetSetsResetValues : Prop :=
  ∀ s rest, s.port = .reset :: rest →
    ∃ t, step s = .next t ∧
      t.crc = 0xFFFF#16 ∧ t.devaddr = 0x01#8 ∧ t.dstate = .idle ∧ t.expcnt = 0#8 ∧ t.hdr0 = 0#8 ∧ t.hdr1 = 0#8 ∧
      t.hdr2 = 0#8 ∧ t.dcrc = 0xFFFF#16 ∧ t.pcnt = 0#8 ∧ t.rclo = 0#8 ∧ t.errcls = .noError ∧ t.excode = 0#8 ∧
      t.stray = false ∧ t.tx = s.tx ∧ t.port = rest ∧ t.status = 0#32 ∧
      (∃ u, exec .cfgGetaddr t = .next u ∧ u.rstat = .ok ∧ u.rval = 1#32) ∧
      (∃ u, exec .crcRead t = .next u ∧ u.rstat = .ok ∧ u.rval = 0xFFFF#32)

/-- R232: reset of a busy decoder leaves what DEC.ABORT would, but that CRC is 0xFFFF and DEVADDR is 1; a byte that
still arrives lands in IDLE as a stray byte. PBUF, which reset leaves unspecified, is not compared. -/
def Obligations.ResetWhileBusyAbandonsLikeAbort : Prop :=
  ∀ s rest, s.busy = true → s.port = .reset :: rest →
    ∃ t u, step s = .next t ∧ exec .decAbort { s with port := rest } = .next u ∧
      t.crc = 0xFFFF#16 ∧ t.devaddr = 0x01#8 ∧ u.crc = s.crc ∧ u.devaddr = s.devaddr ∧
      t.dstate = u.dstate ∧ t.expcnt = u.expcnt ∧ t.hdr0 = u.hdr0 ∧ t.hdr1 = u.hdr1 ∧ t.hdr2 = u.hdr2 ∧
      t.dcrc = u.dcrc ∧ t.pcnt = u.pcnt ∧ t.rclo = u.rclo ∧ t.errcls = u.errcls ∧ t.excode = u.excode ∧
      t.stray = u.stray ∧ t.tx = u.tx ∧
      ∀ b, ∃ v, exec (.decByte b) t = .next v ∧ v.dstate = .idle ∧ v.stray = true

/-! ### The CRC unit -/

/-- R100, R101 and R102: the bit step, the byte update, the CRC of a sequence, its wire bytes and the verification. -/
def Obligations.CrcFunctionIsReflectedA001 : Prop :=
  (∀ c : Half, crcBit c = if c.getLsbD 0 = true then (c >>> 1) ^^^ 0xA001#16 else c >>> 1) ∧
  (∀ (c : Half) (b : Byte), crcUpdate c b =
    crcBit (crcBit (crcBit (crcBit (crcBit (crcBit (crcBit (crcBit (c ^^^ b.setWidth 16))))))))) ∧
  crc16 [] = 0xFFFF#16 ∧
  (∀ bs b, crc16 (bs ++ [b]) = crcUpdate (crc16 bs) b) ∧
  (∀ bs, crcBytes bs = [(crc16 bs).extractLsb' 0 8, (crc16 bs).extractLsb' 8 8]) ∧
  (∀ bs t0 t1, crcVerify bs t0 t1 = true ↔ (crc16 bs).toNat = t1.toNat * 256 + t0.toNat)

/-- R103 and R104: the table holds crc_bit^8 of each index, and the table-driven update equals the byte-serial one. -/
def Obligations.TableFormEqualsSerialForm : Prop :=
  crcTable.length = 256 ∧
  (∀ i : Nat, i < 256 → crcTable[i]? = some (crcBits 8 (BitVec.ofNat 16 i))) ∧
  (∀ (c : Half) (b : Byte), crcUpdateTab c b = (c >>> 8) ^^^ crcBits 8 ((c ^^^ b.setWidth 16) &&& 0xFF#16)) ∧
  (∀ (c : Half) (b : Byte), crcUpdateTab c b = crcUpdate c b)

/-- R105: a sequence followed by its own CRC bytes has CRC 0, and a frame has CRC 0 exactly when its trailing bytes
verify. -/
def Obligations.CrcResidueIsZeroExactlyOnVerify : Prop :=
  (∀ bs, crc16 (bs ++ crcBytes bs) = 0#16) ∧
  (∀ bs t0 t1, crc16 (bs ++ [t0, t1]) = 0#16 ↔ crcVerify bs t0 t1 = true)

/-- R106: CRC.INIT sets CRC to 0xFFFF and returns it, and CRC.READ after it returns 0xFFFF; its one word is
0x01000000. -/
def Obligations.CrcInitSetsSeed : Prop :=
  (∀ s : State, exec .crcInit s = .next { s with crc := 0xFFFF#16, rstat := .ok, rval := 0x0000FFFF#32 }) ∧
  (∀ s : State, ∃ t, execAll [.crcInit, .crcRead] s = .next t ∧ t.rval = 0x0000FFFF#32) ∧
  decode 0x01000000#32 = some .crcInit ∧
  (∀ w : Word, w.toNat / 2 ^ 24 = 0x01 → w.toNat % 2 ^ 24 ≠ 0 → FaultsIllegal w)

/-- R107: CRC.BYTE b advances CRC by b and returns the updated value. -/
def Obligations.CrcByteAdvancesCrc : Prop :=
  (∀ (s : State) (b : Byte), exec (.crcByte b) s =
    .next { s with crc := crcUpdate s.crc b, rstat := .ok, rval := (crcUpdate s.crc b).setWidth 32 }) ∧
  (∀ b : Byte, decode (0x02000000#32 ||| b.setWidth 32) = some (.crcByte b)) ∧
  (∀ w : Word, w.toNat / 2 ^ 24 = 0x02 → w.toNat / 2 ^ 8 % 2 ^ 16 ≠ 0 → FaultsIllegal w)

/-- R108: CRC.READ returns CRC and leaves the state; its one word is 0x03000000. -/
def Obligations.CrcReadReturnsCrc : Prop :=
  (∀ s : State, exec .crcRead s = .next { s with rstat := .ok, rval := s.crc.setWidth 32 }) ∧
  decode 0x03000000#32 = some .crcRead ∧
  (∀ w : Word, w.toNat / 2 ^ 24 = 0x03 → w.toNat % 2 ^ 24 ≠ 0 → FaultsIllegal w)

/-- R109: CRC.CHECK lo, hi returns 1 where CRC is hi:lo and 0 elsewhere, and leaves the state. -/
def Obligations.CrcCheckComparesCrc : Prop :=
  (∀ (s : State) (lo hi : Byte), s.crc.toNat = hi.toNat * 256 + lo.toNat →
    exec (.crcCheck lo hi) s = .next { s with rstat := .ok, rval := 1#32 }) ∧
  (∀ (s : State) (lo hi : Byte), s.crc.toNat ≠ hi.toNat * 256 + lo.toNat →
    exec (.crcCheck lo hi) s = .next { s with rstat := .ok, rval := 0#32 }) ∧
  (∀ lo hi : Byte, decode (0x04000000#32 ||| (hi.setWidth 32 <<< 8) ||| lo.setWidth 32) = some (.crcCheck lo hi)) ∧
  (∀ w : Word, w.toNat / 2 ^ 24 = 0x04 → w.toNat / 2 ^ 16 % 2 ^ 8 ≠ 0 → FaultsIllegal w) ∧
  (∀ (s : State) (bs : List Byte) (t0 t1 : Byte),
    ∃ t, execAll (crcSeq bs ++ [.crcCheck t0 t1]) s = .next t ∧ t.rval = if crcVerify bs t0 t1 then 1#32 else 0#32)

/-- CRC.SEQ of a byte sequence leaves its CRC in the accumulator, whatever CRC held before, and changes nothing else
(30_encoding.md R84, 70_reset_and_hazards.md R235). -/
def Obligations.CrcSequenceComputesCrc16 : Prop :=
  ∀ (s : State) (bs : List Byte),
    execAll (crcSeq bs) s = .next { s with crc := crc16 bs, rstat := .ok, rval := (crc16 bs).setWidth 32 }

/-- A CRC command before or after any other command changes neither that command's effect nor its own: the CRC unit,
the frame encoder and the frame decoder share no CRC state (10_state.md R23, 70_reset_and_hazards.md R235, D5). -/
def Obligations.CrcUnitSharesNothing : Prop :=
  ∀ (i j : Instr) (s t : State),
    i.toSource.mnemonic ∈ [.crcInit, .crcByte, .crcRead, .crcCheck] →
    j.toSource.mnemonic ∉ [.crcInit, .crcByte, .crcRead, .crcCheck] →
    exec j s = .next t →
    ∃ v, exec i s = .next v ∧
      execAll [i, j] s = .next { t with crc := v.crc } ∧
      execAll [j, i] s = .next { t with crc := v.crc, rstat := v.rstat, rval := v.rval }

/-! ### The frame encoder -/

/-- R79 and R130: the eight bytes of the request frame, its 16-bit fields high byte first and its CRC low byte first,
the CRC over the first six bytes only. -/
def Obligations.RequestFrameLayout : Prop :=
  ∀ (a w : Byte) (start : Half), ∀ h, h = [a, 0x03#8, start.extractLsb' 8 8, start.extractLsb' 0 8, 0x00#8, w] →
    buildReadRequest a start w = h ++ [(crc16 h).extractLsb' 0 8, (crc16 h).extractLsb' 8 8]

/-- R135: every legal request frame has eight bytes, its bytes 6 and 7 are the CRC bytes of bytes 0 to 5, its CRC is 0,
and ENC.RD and XCH.RD emit the same frame. -/
def Obligations.RequestFrameProperties : Prop :=
  ∀ (a w : Byte) (start : Half), 1 ≤ a.toNat → a.toNat ≤ 0xF7 → reqArgsOk start w = true →
    ∀ f, f = buildReadRequest a start w →
      f.length = 8 ∧ f.drop 6 = crcBytes (f.take 6) ∧ crc16 f = 0#16 ∧
      ∀ s t : State, s.devaddr = a → t.devaddr = a → t.busy = false →
        ∃ s' t', exec (.encRd start w) s = .next s' ∧ exec (.xchRd start w) t = .next t' ∧
          s'.tx = s.tx ++ f ∧ t'.tx = t.tx ++ f

/-- R131 and R132: ENC.RD with legal arguments emits the request frame and returns its CRC, whatever the decoder does;
with others it faults ARG and does nothing. -/
def Obligations.EncRdEmitsRequest : Prop :=
  (∀ (s : State) (start : Half) (words : Byte),
    start.toNat ≤ 0x1000 → 1 ≤ words.toNat → words.toNat ≤ 0x7D →
    exec (.encRd start words) s = .next { s with
      tx := s.tx ++ buildReadRequest s.devaddr start words, rstat := .ok,
      rval := (crc16 [s.devaddr, 0x03#8, hi8 start, lo8 start, 0x00#8, words]).setWidth 32 }) ∧
  (∀ (s : State) (start : Half) (words : Byte),
    (0x1000 < start.toNat ∨ words.toNat = 0 ∨ 0x7D < words.toNat) →
    exec (.encRd start words) s = .next { s with rstat := .arg, rval := 0#32 }) ∧
  (∀ (start : Half) (words : Byte),
    decode (0x10000000#32 ||| (start.setWidth 32 <<< 8) ||| words.setWidth 32) = some (.encRd start words))

/-- R133 and R134: XCH.RD with legal arguments on a quiescent decoder emits the request, arms the decoder and returns
the frame's CRC. While busy it faults BUSY, whatever its arguments; quiescent with illegal arguments it faults ARG. -/
def Obligations.XchRdOpensExchange : Prop :=
  (∀ (s : State) (start : Half) (words : Byte), s.busy = false →
    start.toNat ≤ 0x1000 → 1 ≤ words.toNat → words.toNat ≤ 0x7D →
    exec (.xchRd start words) s = .next { s with
      tx := s.tx ++ buildReadRequest s.devaddr start words, rstat := .ok,
      rval := (crc16 [s.devaddr, 0x03#8, hi8 start, lo8 start, 0x00#8, words]).setWidth 32,
      expcnt := BitVec.ofNat 8 (2 * words.toNat), hdr0 := 0#8, hdr1 := 0#8, hdr2 := 0#8, dcrc := 0xFFFF#16,
      pcnt := 0#8, rclo := 0#8, errcls := .noError, excode := 0#8, stray := false, dstate := .awAddr }) ∧
  (∀ (s : State) (start : Half) (words : Byte), s.busy = true →
    exec (.xchRd start words) s = .next { s with rstat := .busy, rval := 0#32 }) ∧
  (∀ (s : State) (start : Half) (words : Byte), s.busy = false →
    (0x1000 < start.toNat ∨ words.toNat = 0 ∨ 0x7D < words.toNat) →
    exec (.xchRd start words) s = .next { s with rstat := .arg, rval := 0#32 }) ∧
  (∀ (start : Half) (words : Byte),
    decode (0x11000000#32 ||| (start.setWidth 32 <<< 8) ||| words.setWidth 32) = some (.xchRd start words))

/-! ### The frame decoder -/

/-- Every DEC.BYTE that answers returns OK and the STATUS word after its step, frame errors included; its word carries
the byte in bits 7 to 0 (42_frame_decoder.md R151, 60_exceptions.md R205). -/
def Obligations.DecByteReturnsStatusAfterStep : Prop :=
  (∀ (s t : State) (b : Byte), exec (.decByte b) s = .next t →
    t.rstat = .ok ∧ t.rval = t.status ∧ t.port = s.port ∧ t.tx = s.tx ∧ t.crc = s.crc ∧ t.devaddr = s.devaddr ∧
      t.expcnt = s.expcnt) ∧
  (∀ b : Byte, decode (0x20000000#32 ||| b.setWidth 32) = some (.decByte b)) ∧
  (∀ w : Word, w.toNat / 2 ^ 24 = 0x20 → w.toNat / 2 ^ 8 % 2 ^ 16 ≠ 0 → FaultsIllegal w)

/-- R153 and R154: in AW_ADDR and AW_FUNC the byte is latched, DCRC advances, and no check is made yet. -/
def Obligations.DecByteLatchesHeader : Prop :=
  (∀ (s t : State) (b : Byte), s.dstate = .awAddr →
    t = { s with hdr0 := b, dcrc := crcUpdate s.dcrc b, dstate := .awFunc } →
    exec (.decByte b) s = .next { t with rstat := .ok, rval := t.status }) ∧
  (∀ (s t : State) (b : Byte), s.dstate = .awFunc →
    t = { s with hdr1 := b, dcrc := crcUpdate s.dcrc b, dstate := .awB2 } →
    exec (.decByte b) s = .next { t with rstat := .ok, rval := t.status })

/-- R155: in AW_B2 the byte is latched, DCRC advances, and the complete header is checked in the order address,
exception function, other function, byte length; the first failing check ends the exchange with its class. -/
def Obligations.DecByteChecksHeader : Prop :=
  ∀ (s t u : State) (b : Byte), s.dstate = .awB2 →
    t = { s with hdr2 := b, dcrc := crcUpdate s.dcrc b } →
    u = (if s.hdr0 ≠ s.devaddr then { t with errcls := .addrMismatch, dstate := .err }
      else if s.hdr1 = 0x83#8 then { t with dstate := .awXCrcLo }
      else if s.hdr1 ≠ 0x03#8 then { t with errcls := .badFunc, dstate := .err }
      else if b.toNat < 0x01 ∨ 0xFA < b.toNat then { t with errcls := .frameSize, dstate := .err }
      else { t with pcnt := 0#8, dstate := .awPay }) →
    exec (.decByte b) s = .next { u with rstat := .ok, rval := u.status }

/-- R156: in AW_PAY, with PCNT an index of PBUF, the byte is stored at PBUF[PCNT] and no other byte of PBUF changes;
DCRC and PCNT advance, and the state is AW_CRCLO once PCNT reaches HDR2. The invariants give PCNT < HDR2 ≤ 250, which
makes PCNT such an index. -/
def Obligations.DecByteStoresPayload : Prop :=
  (∀ (s t : State) (b : Byte), s.dstate = .awPay → s.pcnt.toNat ≤ 249 →
    t = { s with
      pbuf := s.pbuf.write s.pcnt.toNat b, dcrc := crcUpdate s.dcrc b, pcnt := BitVec.ofNat 8 (s.pcnt.toNat + 1),
      dstate := if s.pcnt.toNat + 1 = s.hdr2.toNat then .awCrcLo else .awPay } →
    exec (.decByte b) s = .next { t with rstat := .ok, rval := t.status } ∧
    t.pbuf.read s.pcnt.toNat = b ∧ ∀ i, i ≠ s.pcnt.toNat → t.pbuf.read i = s.pbuf.read i) ∧
  (∀ s : State, Inv s → s.dstate = .awPay → s.pcnt.toNat < s.hdr2.toNat ∧ s.hdr2.toNat ≤ 250)

/-- R157 and R158: in AW_CRCLO the low byte is latched; in AW_CRCHI the received CRC is checked, then the length, and
DONE follows when both agree. DCRC does not advance. -/
def Obligations.DecByteChecksCrcThenLength : Prop :=
  (∀ (s t : State) (b : Byte), s.dstate = .awCrcLo → t = { s with rclo := b, dstate := .awCrcHi } →
    exec (.decByte b) s = .next { t with rstat := .ok, rval := t.status }) ∧
  (∀ (s t : State) (b : Byte), s.dstate = .awCrcHi →
    t = (if b.toNat * 256 + s.rclo.toNat ≠ s.dcrc.toNat then { s with errcls := .crcMismatch, dstate := .err }
      else if s.hdr2 ≠ s.expcnt then { s with errcls := .lenMismatch, dstate := .err }
      else { s with dstate := .done }) →
    exec (.decByte b) s = .next { t with rstat := .ok, rval := t.status })

/-- R159 and R160: in AW_XCRCLO the low byte is latched; in AW_XCRCHI a bad CRC is CRC_MISMATCH, and a good one is
DEVICE with the exception code in EXCODE. -/
def Obligations.DecByteEndsExceptionResponse : Prop :=
  (∀ (s t : State) (b : Byte), s.dstate = .awXCrcLo → t = { s with rclo := b, dstate := .awXCrcHi } →
    exec (.decByte b) s = .next { t with rstat := .ok, rval := t.status }) ∧
  (∀ (s t : State) (b : Byte), s.dstate = .awXCrcHi →
    t = (if b.toNat * 256 + s.rclo.toNat ≠ s.dcrc.toNat then { s with errcls := .crcMismatch, dstate := .err }
      else { s with excode := s.hdr2, errcls := .device, dstate := .err }) →
    exec (.decByte b) s = .next { t with rstat := .ok, rval := t.status })

/-- R161: bytes that no exchange waits for are discarded, one or many: STRAY is set and no other element changes, so
the outcome of the exchange that ended is kept. -/
def Obligations.StrayBytesChangeOnlyStray : Prop :=
  ∀ (s t : State) (bs : List Byte), s.dstate = .idle ∨ s.dstate = .done ∨ s.dstate = .err → bs ≠ [] →
    t = { s with stray := true } →
    execAll (decFeed bs) s = .next { t with rstat := .ok, rval := t.status }

/-- DEC.ABORT returns every decoder register but PBUF to its reset value in every state, and returns 0, which is also
STATUS after it (42_frame_decoder.md R164). In IDLE it clears STRAY too, as its pseudocode says (log 14). -/
def Obligations.DecAbortClearsDecoder : Prop :=
  (∀ (s t : State), t = { s with
      dstate := .idle, expcnt := 0#8, hdr0 := 0#8, hdr1 := 0#8, hdr2 := 0#8, dcrc := 0xFFFF#16, pcnt := 0#8,
      rclo := 0#8, errcls := .noError, excode := 0#8, stray := false, rstat := .ok, rval := 0#32 } →
    exec .decAbort s = .next t ∧ t.status = 0#32) ∧
  decode 0x21000000#32 = some .decAbort ∧
  (∀ w : Word, w.toNat / 2 ^ 24 = 0x21 → w.toNat % 2 ^ 24 ≠ 0 → FaultsIllegal w)

/-- R165: DEC.RDBUF i returns PBUF[i] in DONE for i below PCNT and leaves the state. In any other state it faults
NOT_READY, checked first; in DONE it faults ARG for i at or above PCNT, which in every state that meets the invariants
includes every i from 250. -/
def Obligations.DecRdbufReturnsPayloadByte : Prop :=
  (∀ (s : State) (i : Byte), s.dstate = .done → i.toNat < s.pcnt.toNat → i.toNat ≤ 249 →
    exec (.decRdbuf i) s = .next { s with rstat := .ok, rval := (s.pbuf.read i.toNat).setWidth 32 }) ∧
  (∀ (s : State) (i : Byte), s.dstate ≠ .done →
    exec (.decRdbuf i) s = .next { s with rstat := .notReady, rval := 0#32 }) ∧
  (∀ (s : State) (i : Byte), s.dstate = .done → s.pcnt.toNat ≤ i.toNat →
    exec (.decRdbuf i) s = .next { s with rstat := .arg, rval := 0#32 }) ∧
  (∀ (s : State) (i : Byte), Inv s → s.dstate = .done → i.toNat < s.pcnt.toNat → i.toNat ≤ 249) ∧
  (∀ (s : State) (i : Byte), Inv s → s.dstate = .done → 250 ≤ i.toNat → s.pcnt.toNat ≤ i.toNat) ∧
  (∀ i : Byte, decode (0x22000000#32 ||| i.setWidth 32) = some (.decRdbuf i)) ∧
  (∀ w : Word, w.toNat / 2 ^ 24 = 0x22 → w.toNat / 2 ^ 8 % 2 ^ 16 ≠ 0 → FaultsIllegal w)

/-- Where the model stops, which the spec's invariants exclude: DEC.BYTE in AW_PAY with PCNT above 249, and DEC.RDBUF
in DONE of an index below PCNT that lies outside PBUF (the model's choice, log 4). -/
def Obligations.PayloadBufferStops : Prop :=
  (∀ (s : State) (b : Byte), s.dstate = .awPay → 250 ≤ s.pcnt.toNat →
    exec (.decByte b) s = .fault (.pbufNoSuchByte s.pcnt.toNat)) ∧
  (∀ (s : State) (i : Byte), s.dstate = .done → i.toNat < s.pcnt.toNat → 250 ≤ i.toNat →
    exec (.decRdbuf i) s = .fault (.pbufNoSuchByte i.toNat))

/-- What PBUF holds at reset, and in its bytes at and above PCNT, cannot be observed: two states that differ in such
bytes alone answer every step alike, result interface, STATUS and TX included, and differ in such bytes alone after it.
So no value that the model names for them (log 3) shows in any run (10_state.md R36, 93_implementation_defined.md
I1). -/
def Obligations.UnwrittenPayloadBytesAreUnobservable : Prop :=
  (∀ (m : Memory) (p : List HostEvent),
    SamePayload { State.reset with port := p } { State.reset with port := p, pbuf := m }) ∧
  (∀ s t s' : State, SamePayload s t → step s = .next s' →
    ∃ t', step t = .next t' ∧ t'.rstat = s'.rstat ∧ t'.rval = s'.rval ∧ t'.status = s'.status ∧ t'.tx = s'.tx ∧
      SamePayload s' t') ∧
  (∀ (s t : State) (f : Fault), SamePayload s t → step s = .fault f → step t = .fault f)

/-- R166: DEC.STATUS returns the STATUS word and leaves the state; its one word is 0x23000000. After reset STATUS is
0, and while the decoder is busy bit 25 is 1. -/
def Obligations.DecStatusReturnsStatus : Prop :=
  (∀ s : State, exec .decStatus s = .next { s with rstat := .ok, rval := s.status }) ∧
  State.reset.status = 0#32 ∧
  (∀ s : State, s.busy = true → s.status.getLsbD 25 = true) ∧
  decode 0x23000000#32 = some .decStatus ∧
  (∀ w : Word, w.toNat / 2 ^ 24 = 0x23 → w.toNat % 2 ^ 24 ≠ 0 → FaultsIllegal w)

/-- R38: the fields of the STATUS word, which is 0 after reset and which DEC.STATUS, and DEC.BYTE after its step,
return. -/
def Obligations.StatusWordFields : Prop :=
  (∀ s : State,
    s.status.extractLsb' 0 4 = dstateCode s.dstate ∧
    s.status.extractLsb' 4 4 = errclsCode s.errcls ∧
    s.status.extractLsb' 8 8 = s.excode ∧
    s.status.extractLsb' 16 8 = s.pcnt ∧
    s.status.getLsbD 24 = s.stray ∧
    s.status.getLsbD 25 = s.busy ∧
    s.status.extractLsb' 26 6 = 0#6) ∧
  State.reset.status = 0#32 ∧
  (∀ s : State, ∃ t, exec .decStatus s = .next t ∧ t.rval = s.status) ∧
  (∀ (s t : State) (b : Byte), exec (.decByte b) s = .next t → t.rval = t.status)

/-- The codes of DSTATE, ERRCLS and RSTAT, each its own, and busy is DSTATE in 1..8 (10_state.md R25, R27, R34, R40).
The codes above them cannot be held (log 8). -/
def Obligations.RegisterCodes : Prop :=
  [DState.idle, .awAddr, .awFunc, .awB2, .awPay, .awCrcLo, .awCrcHi, .awXCrcLo, .awXCrcHi, .done, .err].map
    (fun d => (dstateCode d).toNat) = List.range 11 ∧
  [ErrCls.noError, .crcMismatch, .frameSize, .addrMismatch, .badFunc, .lenMismatch, .device].map
    (fun c => (errclsCode c).toNat) = List.range 7 ∧
  [RStat.ok, .illegal, .arg, .busy, .notReady].map (fun r => (rstatCode r).toNat) = List.range 5 ∧
  (∀ s : State, s.busy = true ↔ 1 ≤ (dstateCode s.dstate).toNat ∧ (dstateCode s.dstate).toNat ≤ 8)

/-- R163: the names of the exception codes, and "unknown" for every other code. -/
def Obligations.ExceptionCodeNames : Prop :=
  exName 0x01#8 = "unsupported function" ∧ exName 0x02#8 = "bad address/length" ∧
  exName 0x03#8 = "length too large" ∧ exName 0x04#8 = "read/write failure" ∧
  exName 0x05#8 = "bad checksum from requester" ∧
  ∀ c : Byte, c.toNat = 0 ∨ 0x06 ≤ c.toNat → exName c = "unknown"

/-! ### Configuration -/

/-- R190: CFG.SETADDR sets DEVADDR to a legal address on a quiescent decoder and returns it. While busy it faults BUSY;
quiescent with an address outside 1..0xF7 it faults ARG. -/
def Obligations.CfgSetaddrSetsLegalAddress : Prop :=
  (∀ (s : State) (a : Byte), s.busy = false → 0x01 ≤ a.toNat → a.toNat ≤ 0xF7 →
    exec (.cfgSetaddr a) s = .next { s with devaddr := a, rstat := .ok, rval := a.setWidth 32 }) ∧
  (∀ (s : State) (a : Byte), s.busy = true →
    exec (.cfgSetaddr a) s = .next { s with rstat := .busy, rval := 0#32 }) ∧
  (∀ (s : State) (a : Byte), s.busy = false → (a.toNat < 0x01 ∨ 0xF7 < a.toNat) →
    exec (.cfgSetaddr a) s = .next { s with rstat := .arg, rval := 0#32 }) ∧
  (∀ a : Byte, decode (0x30000000#32 ||| a.setWidth 32) = some (.cfgSetaddr a)) ∧
  (∀ w : Word, w.toNat / 2 ^ 24 = 0x30 → w.toNat / 2 ^ 8 % 2 ^ 16 ≠ 0 → FaultsIllegal w)

/-- R191: CFG.GETADDR returns DEVADDR in every decoder state and leaves the state; after reset it returns 1. -/
def Obligations.CfgGetaddrReturnsAddress : Prop :=
  (∀ s : State, exec .cfgGetaddr s = .next { s with rstat := .ok, rval := s.devaddr.setWidth 32 }) ∧
  State.reset.devaddr = 0x01#8 ∧
  decode 0x31000000#32 = some .cfgGetaddr ∧
  (∀ w : Word, w.toNat / 2 ^ 24 = 0x31 → w.toNat % 2 ^ 24 ≠ 0 → FaultsIllegal w)

/-! ### Faults and frames over all commands -/

/-- R200 and R203: a command that does not return OK returns RVAL 0 and changes nothing else, and no command sees the
result of an earlier one. -/
def Obligations.CommandFaultsHaveNoEffect : Prop :=
  (∀ (s t : State) (w : Word) (rest : List HostEvent), s.port = .command w :: rest → step s = .next t →
    t.rstat ≠ .ok → t = { s with port := rest, rstat := t.rstat, rval := 0#32 }) ∧
  (∀ (i : Instr) (s : State) (r : RStat) (v : Word), exec i { s with rstat := r, rval := v } = exec i s)

/-- R201, R202, R204 and R208: which command faults when, in the order ILLEGAL, BUSY or NOT_READY, ARG. -/
def Obligations.CommandFaultCausesInOrder : Prop :=
  (∀ (s t : State) (w : Word) (rest : List HostEvent), s.port = .command w :: rest → step s = .next t →
    (t.rstat = .illegal ↔ decode w = none)) ∧
  (∀ (i : Instr) (s t : State), exec i s = .next t →
    (t.rstat = .busy ↔ s.busy = true ∧ i.toSource.mnemonic ∈ [.xchRd, .cfgSetaddr]) ∧
    (t.rstat = .notReady ↔ s.dstate ≠ .done ∧ i.toSource.mnemonic = .decRdbuf) ∧
    (t.rstat = .arg ↔
      (∃ start words, i = .encRd start words ∧ (0x1000 < start.toNat ∨ words.toNat = 0 ∨ 0x7D < words.toNat)) ∨
      (∃ start words, i = .xchRd start words ∧ s.busy = false ∧
        (0x1000 < start.toNat ∨ words.toNat = 0 ∨ 0x7D < words.toNat)) ∨
      (∃ k, i = .decRdbuf k ∧ s.dstate = .done ∧ s.pcnt.toNat ≤ k.toNat) ∨
      (∃ a, i = .cfgSetaddr a ∧ s.busy = false ∧ (a.toNat = 0 ∨ 0xF7 < a.toNat))))

/-- The writes of the access table: each element changes only under the commands listed for it (10_state.md R42). -/
def Obligations.CommandsWriteOnlyTheirElements : Prop :=
  ∀ (i : Instr) (s t : State), exec i s = .next t →
    (i.toSource.mnemonic ∉ [.crcInit, .crcByte] → t.crc = s.crc) ∧
    (i.toSource.mnemonic ∉ [.cfgSetaddr] → t.devaddr = s.devaddr) ∧
    (i.toSource.mnemonic ∉ [.xchRd, .decAbort] → t.expcnt = s.expcnt) ∧
    (i.toSource.mnemonic ∉ [.xchRd, .decByte, .decAbort] →
      t.dstate = s.dstate ∧ t.hdr0 = s.hdr0 ∧ t.hdr1 = s.hdr1 ∧ t.hdr2 = s.hdr2 ∧ t.dcrc = s.dcrc ∧
      t.pcnt = s.pcnt ∧ t.rclo = s.rclo ∧ t.errcls = s.errcls ∧ t.excode = s.excode ∧ t.stray = s.stray) ∧
    (i.toSource.mnemonic ∉ [.decByte] → t.pbuf = s.pbuf) ∧
    (i.toSource.mnemonic ∉ [.encRd, .xchRd] → t.tx = s.tx) ∧
    t.port = s.port

/-- The decoder's transitions: only XCH.RD, DEC.BYTE and DEC.ABORT write DSTATE, and only along the listed moves
(10_state.md R26). -/
def Obligations.DecoderMovesAlongItsTransitions : Prop :=
  ∀ (i : Instr) (s t : State), exec i s = .next t → t.dstate ≠ s.dstate →
    (i.toSource.mnemonic = .xchRd ∧ s.dstate ∈ [.idle, .done, .err] ∧ t.dstate = .awAddr) ∨
    (i.toSource.mnemonic = .decAbort ∧ t.dstate = .idle) ∨
    (i.toSource.mnemonic = .decByte ∧ (s.dstate, t.dstate) ∈
      [(.awAddr, .awFunc), (.awFunc, .awB2), (.awB2, .awPay), (.awB2, .awXCrcLo), (.awB2, .err), (.awPay, .awCrcLo),
       (.awCrcLo, .awCrcHi), (.awCrcHi, .done), (.awCrcHi, .err), (.awXCrcLo, .awXCrcHi), (.awXCrcHi, .err)])

/-- A step leaves TX alone, removes its head, or appends one whole request frame of eight bytes with residue 0: no
partial request ever enters TX (10_state.md R37, 20_memory.md R56). -/
def Obligations.TxChangesByHeadOrWholeFrame : Prop :=
  ∀ s t : State, step s = .next t →
    t.tx = s.tx ∨ (∃ b, s.tx = b :: t.tx) ∨
    ∃ f : List Byte, f.length = 8 ∧ crc16 f = 0#16 ∧ f.head? = some s.devaddr ∧ t.tx = s.tx ++ f

/-- The reading commands change nothing but the result, and issued again return the same result (20_memory.md R57). -/
def Obligations.ReadingCommandsAreIdempotent : Prop :=
  ∀ (i : Instr) (s t : State),
    i.toSource.mnemonic ∈ [.crcRead, .crcCheck, .decRdbuf, .decStatus, .cfgGetaddr] → exec i s = .next t →
    t = { s with rstat := t.rstat, rval := t.rval } ∧ exec i t = .next t

/-- R205: a frame error is raised by DEC.BYTE alone, ends the exchange in ERR with ERRCLS in 1..6, and that DEC.BYTE
returns OK with the STATUS word that shows the error. -/
def Obligations.FrameErrorsComeFromDecByte : Prop :=
  ∀ (i : Instr) (s t : State), exec i s = .next t → s.dstate ≠ .err → t.dstate = .err →
    i.toSource.mnemonic = .decByte ∧ 1 ≤ (errclsCode t.errcls).toNat ∧ (errclsCode t.errcls).toNat ≤ 6 ∧
    t.rstat = .ok ∧ t.rval = t.status ∧ t.rval.extractLsb' 4 4 = errclsCode t.errcls ∧
    t.rval.extractLsb' 0 4 = 10#4

/-- ERR is left only by an accepted XCH.RD, by DEC.ABORT or by reset; every other step keeps the error's record
(42_frame_decoder.md R152, 60_exceptions.md R211, R212). -/
def Obligations.ErrorRecordIsSticky : Prop :=
  ∀ s t : State, s.dstate = .err → step s = .next t →
    (t.dstate = .err ∧ t.errcls = s.errcls ∧ t.excode = s.excode ∧ t.pcnt = s.pcnt) ∨
    (∃ rest, s.port = .reset :: rest ∧ t.dstate = .idle) ∨
    (∃ w rest, s.port = .command w :: rest ∧ decode w = some .decAbort ∧ t.dstate = .idle) ∨
    (∃ w rest start words, s.port = .command w :: rest ∧ decode w = some (.xchRd start words) ∧
      reqArgsOk start words = true ∧ t.dstate = .awAddr)

/-! ### Invariants -/

/-- The reset state, whatever the host does next, meets the invariants. -/
def Obligations.ResetMeetsInvariants : Prop :=
  ∀ p : List HostEvent,
    Inv { State.reset with port := p } ∧ CrcTracks { State.reset with port := p } ∧
    HeaderChecked { State.reset with port := p }

/-- Every step keeps the invariants of 10_state.md R41, with PBUF canonical (R36). -/
def Obligations.StepKeepsInvariants : Prop :=
  ∀ s t : State, Inv s → step s = .next t → Inv t

/-- Every step keeps DCRC the CRC of the response bytes received in the exchange (10_state.md R30). -/
def Obligations.StepKeepsRunningCrc : Prop :=
  ∀ s t : State, CrcTracks s → step s = .next t → CrcTracks t

/-- Every step keeps the header's checks: past its header a response has the function code of its form, and until it
ends the address it was checked against is DEVADDR (42_frame_decoder.md R155, 43_config.md R190). -/
def Obligations.StepKeepsHeaderChecks : Prop :=
  ∀ s t : State, HeaderChecked s → step s = .next t → HeaderChecked t

/-- The block never stops: in a state that meets the invariants, every step answers a next state, whatever the host
does (60_exceptions.md R203, R214; 10_state.md R36). -/
def Obligations.InvariantStatesNeverStop : Prop :=
  ∀ s : State, Inv s → Runs s

/-! ### Whole responses -/

/-- A complete response to an exchange ends it at the byte, and with the outcome, that the table of R162 gives: busy
until that byte, then DONE with the payload or ERR with its class; the bytes after it are stray. -/
def Obligations.ResponsesEndAsTabulated : Prop :=
  ∀ (s : State) (start : Half) (words : Byte) (r : List Byte) (v : Verdict),
    s.busy = false → reqArgsOk start words = true → responseVerdict s.devaddr words r = some v →
    (∀ k, k ≤ v.endsAt → ∃ t, execAll (readReg start words (r.take k)) s = .next t ∧ t.busy = true) ∧
    ∃ t, execAll (readReg start words r) s = .next t ∧
      t.dstate = v.dstate ∧ t.errcls = v.errcls ∧ t.excode = v.excode ∧ t.pcnt.toNat = v.pcnt ∧
      t.stray = decide (v.endsAt + 1 < r.length) ∧
      (v.dstate = .done → payloadBytes t.pbuf v.pcnt = (r.drop 3).take v.pcnt)

/-- A response too short to reach the byte that ends the exchange leaves the decoder busy, and a later XCH.RD faults
BUSY (42_frame_decoder.md R162, 70_reset_and_hazards.md R238). -/
def Obligations.ShortResponsesLeaveDecoderBusy : Prop :=
  ∀ (s : State) (start : Half) (words : Byte) (r : List Byte),
    s.busy = false → reqArgsOk start words = true → responseVerdict s.devaddr words r = none →
    ∃ t, execAll (readReg start words r) s = .next t ∧ t.busy = true ∧ t.errcls = .noError ∧
      ∀ start' words', exec (.xchRd start' words') t = .next { t with rstat := .busy, rval := 0#32 }
end

