-- ==== Sys2Proof/Laws/Crc.lean ====
section
/-! SUPPORT. The small lemmas of the CRC function: how it runs along a byte sequence, and how its bit step treats XOR. -/

namespace Sys2Proof.Machine

@[simp] theorem crc16_nil : crc16 [] = Config.crcSeed := rfl

/-- The CRC of a longer sequence is the CRC of its beginning, advanced by the last byte (R102). -/
@[simp] theorem crc16_concat (bs : List Byte) (b : Byte) : crc16 (bs ++ [b]) = crcUpdate (crc16 bs) b := by
  simp [crc16]

/-- The CRC runs on from the CRC of the beginning (R102). -/
theorem crc16_append (bs cs : List Byte) : crc16 (bs ++ cs) = cs.foldl crcUpdate (crc16 bs) := by
  simp [crc16]

@[simp] theorem crcBits_zero (c : Half) : crcBits 0 c = c := rfl

theorem crcBits_succ (n : Nat) (c : Half) : crcBits (n + 1) c = crcBits n (crcBit c) := rfl

/-- The bit step is linear over XOR (R104). -/
theorem crcBit_xor (c d : Half) : crcBit (c ^^^ d) = crcBit c ^^^ crcBit d := by
  unfold crcBit
  rw [BitVec.getLsbD_xor, BitVec.ushiftRight_xor_distrib]
  cases c.getLsbD 0 <;> cases d.getLsbD 0 <;> simp only [Bool.xor_false, Bool.xor_true, Bool.not_false, Bool.not_true,
    if_true, if_false, Bool.false_eq_true]
  · rw [BitVec.xor_assoc]
  · rw [BitVec.xor_assoc, BitVec.xor_assoc, BitVec.xor_comm (d >>> 1)]
  · rw [BitVec.xor_assoc, BitVec.xor_comm Config.crcPoly, BitVec.xor_assoc, BitVec.xor_self, BitVec.xor_zero]

/-- Any number of bit steps is linear over XOR (R104). -/
theorem crcBits_xor (n : Nat) (c d : Half) : crcBits n (c ^^^ d) = crcBits n c ^^^ crcBits n d := by
  induction n generalizing c d with
  | zero => rfl
  | succ n ih => simp only [crcBits_succ, crcBit_xor, ih]

end Sys2Proof.Machine
end

