-- ==== Sys2Proof/Laws/Decode.lean ====
section
/-! SUPPORT. Decoding and encoding as arithmetic on the word's number: the row tests of R75 as quotients, the fields as
quotients and remainders, and the encoded word as a sum. -/

namespace Sys2Proof

/-- Masking away the low k bits of a 32-bit number. -/
theorem and_highMask {w k : Nat} (hk : k ≤ 32) (hw : w < 2 ^ 32) : w &&& (2 ^ 32 - 2 ^ k) = w / 2 ^ k * 2 ^ k := by
  have hmask : 2 ^ 32 - 2 ^ k = (2 ^ (32 - k) - 1) * 2 ^ k := by
    rw [Nat.sub_mul, ← Nat.pow_add, Nat.sub_add_cancel hk, Nat.one_mul]
  apply Nat.eq_of_testBit_eq
  intro i
  rw [hmask, Nat.testBit_and, Nat.testBit_mul_two_pow, Nat.testBit_mul_two_pow, Nat.testBit_two_pow_sub_one,
    Nat.testBit_div_two_pow]
  by_cases hki : k ≤ i
  · rw [Nat.sub_add_cancel hki]
    by_cases hi : i < 32
    · have : i - k < 32 - k := by omega
      simp [hki, this]
    · have : w.testBit i = false :=
        Nat.testBit_lt_two_pow (lt_of_lt_of_le hw (Nat.pow_le_pow_right (by omega) (by omega)))
      simp [this]
  · simp [hki]

theorem fieldLow_toNat (w : Word) : (fieldLow w).toNat = w.toNat % 256 := by simp [fieldLow]

theorem fieldHi_toNat (w : Word) : (fieldHi w).toNat = w.toNat / 256 % 256 := by
  simp [fieldHi, Nat.shiftRight_eq_div_pow]

theorem fieldStart_toNat (w : Word) : (fieldStart w).toNat = w.toNat / 256 % 65536 := by
  simp [fieldStart, Nat.shiftRight_eq_div_pow]

theorem rowMatches_iff (r : OpcodeRow) (w : Word) :
    rowMatches r w = true ↔ w.toNat &&& r.mask.toNat = r.pattern.toNat := by
  simp [rowMatches, ← BitVec.toNat_inj]

/-- A row of format N matches one word. -/
theorem rowMatches_formatN (m : Mnemonic) (p : Word) (f : Word → Instr) (w : Word) :
    rowMatches ⟨m, p, 0xFFFFFFFF#32, f⟩ w = decide (w.toNat = p.toNat) := by
  rw [Bool.eq_iff_iff, rowMatches_iff, decide_eq_true_iff]
  have := and_highMask (k := 0) (by omega) w.isLt
  simp only [BitVec.toNat_ofNat] at *
  norm_num at *
  rw [this]

/-- A row of format B matches the words that agree with it above bit 7. -/
theorem rowMatches_formatB (m : Mnemonic) (p : Word) (f : Word → Instr) (w : Word) (hp : p.toNat % 256 = 0) :
    rowMatches ⟨m, p, 0xFFFFFF00#32, f⟩ w = decide (w.toNat / 256 = p.toNat / 256) := by
  rw [Bool.eq_iff_iff, rowMatches_iff, decide_eq_true_iff]
  have := and_highMask (k := 8) (by omega) w.isLt
  simp only [BitVec.toNat_ofNat] at *
  norm_num at *
  rw [this]
  omega

/-- A row of format H matches the words that agree with it above bit 15. -/
theorem rowMatches_formatH (m : Mnemonic) (p : Word) (f : Word → Instr) (w : Word) (hp : p.toNat % 65536 = 0) :
    rowMatches ⟨m, p, 0xFFFF0000#32, f⟩ w = decide (w.toNat / 65536 = p.toNat / 65536) := by
  rw [Bool.eq_iff_iff, rowMatches_iff, decide_eq_true_iff]
  have := and_highMask (k := 16) (by omega) w.isLt
  simp only [BitVec.toNat_ofNat] at *
  norm_num at *
  rw [this]
  omega

/-- A row of format R matches the words with its OPC. -/
theorem rowMatches_formatR (m : Mnemonic) (p : Word) (f : Word → Instr) (w : Word) (hp : p.toNat % 16777216 = 0) :
    rowMatches ⟨m, p, 0xFF000000#32, f⟩ w = decide (w.toNat / 16777216 = p.toNat / 16777216) := by
  rw [Bool.eq_iff_iff, rowMatches_iff, decide_eq_true_iff]
  have := and_highMask (k := 24) (by omega) w.isLt
  simp only [BitVec.toNat_ofNat] at *
  norm_num at *
  rw [this]
  omega

/-- The search of R76 as a chain of quotient tests. -/
theorem decode_eq_chain (w : Word) : decode w =
    if w.toNat = 0x01000000 then some .crcInit
    else if w.toNat / 256 = 0x020000 then some (.crcByte (fieldLow w))
    else if w.toNat = 0x03000000 then some .crcRead
    else if w.toNat / 65536 = 0x0400 then some (.crcCheck (fieldLow w) (fieldHi w))
    else if w.toNat / 16777216 = 0x10 then some (.encRd (fieldStart w) (fieldLow w))
    else if w.toNat / 16777216 = 0x11 then some (.xchRd (fieldStart w) (fieldLow w))
    else if w.toNat / 256 = 0x200000 then some (.decByte (fieldLow w))
    else if w.toNat = 0x21000000 then some .decAbort
    else if w.toNat / 256 = 0x220000 then some (.decRdbuf (fieldLow w))
    else if w.toNat = 0x23000000 then some .decStatus
    else if w.toNat / 256 = 0x300000 then some (.cfgSetaddr (fieldLow w))
    else if w.toNat = 0x31000000 then some .cfgGetaddr
    else none := by
  unfold decode opcodeMap decodeRows decodeRows decodeRows decodeRows decodeRows decodeRows decodeRows decodeRows
    decodeRows decodeRows decodeRows decodeRows decodeRows
  rw [rowMatches_formatN, rowMatches_formatB _ _ _ _ rfl, rowMatches_formatN, rowMatches_formatH _ _ _ _ rfl,
    rowMatches_formatR _ _ _ _ rfl, rowMatches_formatR _ _ _ _ rfl, rowMatches_formatB _ _ _ _ rfl, rowMatches_formatN,
    rowMatches_formatB _ _ _ _ rfl, rowMatches_formatN, rowMatches_formatB _ _ _ _ rfl, rowMatches_formatN]
  simp only [decide_eq_true_iff]
  rfl

theorem opcField_toNat (opc : Byte) : (opcField opc).toNat = opc.toNat * 16777216 := by
  have := opc.isLt
  simp only [opcField, BitVec.toNat_shiftLeft, BitVec.toNat_setWidth, Nat.shiftLeft_eq]
  omega

/-- Two numbers whose bits do not meet: their disjunction is their sum. -/
theorem or_eq_add {a b k : Nat} (hb : b < 2 ^ k) (ha : a % 2 ^ k = 0) : a ||| b = a + b := by
  obtain ⟨c, rfl⟩ : ∃ c, a = c * 2 ^ k := ⟨a / 2 ^ k, (Nat.div_mul_cancel (Nat.dvd_of_mod_eq_zero ha)).symm⟩
  rw [← Nat.shiftLeft_eq, Nat.shiftLeft_add_eq_or_of_lt hb]

theorem encodeN_toNat (opc : Byte) : (encodeN opc).toNat = opc.toNat * 16777216 := opcField_toNat opc

theorem encodeB_toNat (opc b : Byte) : (encodeB opc b).toNat = opc.toNat * 16777216 + b.toNat := by
  have := b.isLt
  rw [encodeB, BitVec.toNat_or, opcField_toNat, BitVec.toNat_setWidth, Nat.mod_eq_of_lt (by omega),
    or_eq_add (k := 8) (by omega) (by omega)]

/-- A byte above a start or hi field above a byte: the sum of the three. -/
theorem fields_toNat (opc words : Byte) {mid : Nat} (hm : mid < 65536) :
    opc.toNat * 16777216 ||| mid * 256 ||| words.toNat = opc.toNat * 16777216 + mid * 256 + words.toNat := by
  have := words.isLt
  have h1 : opc.toNat * 16777216 ||| mid * 256 = opc.toNat * 16777216 + mid * 256 :=
    or_eq_add (k := 24) (by omega) (by omega)
  rw [h1, or_eq_add (k := 8) (by omega) (by omega)]

theorem encodeR_toNat (opc : Byte) (start : Half) (words : Byte) :
    (encodeR opc start words).toNat = opc.toNat * 16777216 + start.toNat * 256 + words.toNat := by
  have := start.isLt
  have := words.isLt
  rw [encodeR, BitVec.toNat_or, BitVec.toNat_or, opcField_toNat, BitVec.toNat_shiftLeft, BitVec.toNat_setWidth,
    BitVec.toNat_setWidth, Nat.shiftLeft_eq, Nat.mod_eq_of_lt (a := start.toNat) (by omega),
    Nat.mod_eq_of_lt (a := words.toNat) (by omega), Nat.mod_eq_of_lt (by omega), fields_toNat opc words (by omega)]

theorem encodeH_toNat (opc lo hi : Byte) :
    (encodeH opc lo hi).toNat = opc.toNat * 16777216 + hi.toNat * 256 + lo.toNat := by
  have := lo.isLt
  have := hi.isLt
  rw [encodeH, BitVec.toNat_or, BitVec.toNat_or, opcField_toNat, BitVec.toNat_shiftLeft, BitVec.toNat_setWidth,
    BitVec.toNat_setWidth, Nat.shiftLeft_eq, Nat.mod_eq_of_lt (a := hi.toNat) (by omega),
    Nat.mod_eq_of_lt (a := lo.toNat) (by omega), Nat.mod_eq_of_lt (by omega), fields_toNat opc lo (by omega)]

end Sys2Proof
end

