-- ==== Sys2Proof/Laws/Memory.lean ====
section
/-! SUPPORT. What the payload buffer's operations do: reading after a write, the canonical form, that canonical buffers
with the same bytes are the same, and the two outcomes of a load and of a store. -/

namespace Sys2Proof.Machine

@[simp] theorem Memory.read_nil (i : Nat) : Memory.read [] i = Config.pbufUnwritten := rfl

@[simp] theorem Memory.read_cons (k : Nat) (v : Byte) (m : Memory) (i : Nat) :
    Memory.read ((k, v) :: m) i = if k = i then v else m.read i := rfl

/-! ### Reading after a write -/

/-- What listing a byte does to every index. -/
theorem Memory.read_insert (m : Memory) (a i : Nat) (b : Byte) :
    (m.insert a b).read i = if i = a then b else m.read i := by
  induction m with
  | nil => simp [Memory.insert, eq_comm]
  | cons c m ih =>
    obtain ⟨k, v⟩ := c
    simp only [Memory.insert]
    split
    · simp [eq_comm]
    · split
      · rename_i heq
        subst heq
        by_cases hi : i = a <;> simp [hi, Ne.symm]
      · by_cases hk : k = i
        · subst hk; simp [Ne.symm ‹¬a = k›]
        · simp [hk, ih]

/-- What taking an index out does to every index. -/
theorem Memory.read_erase (m : Memory) (a i : Nat) :
    (m.erase a).read i = if i = a then Config.pbufUnwritten else m.read i := by
  induction m with
  | nil => simp [Memory.erase]
  | cons c m ih =>
    obtain ⟨k, v⟩ := c
    simp only [Memory.erase]
    split
    · rename_i hk
      subst hk
      by_cases hi : i = k
      · rw [ih, if_pos hi, if_pos hi]
      · rw [ih, if_neg hi, if_neg hi, Memory.read_cons, if_neg (Ne.symm hi)]
    · by_cases hk : k = i
      · subst hk; simp [*]
      · simp [hk, ih]

/-- What a write does to every index. -/
theorem Memory.read_write (m : Memory) (a i : Nat) (b : Byte) :
    (m.write a b).read i = if i = a then b else m.read i := by
  unfold Memory.write
  split
  · rw [Memory.read_erase, ‹b = _›]
  · exact m.read_insert a i b

/-- A read at the index just written gives the byte written. -/
@[simp] theorem Memory.read_write_same (m : Memory) (a : Nat) (b : Byte) : (m.write a b).read a = b := by
  simp [Memory.read_write]

/-- A write leaves every other index alone. -/
theorem Memory.read_write_other (m : Memory) {a i : Nat} (b : Byte) (h : i ≠ a) :
    (m.write a b).read i = m.read i := by
  simp [Memory.read_write, h]

/-! ### The canonical form -/

/-- The canonical form of a buffer with a cell. -/
theorem Memory.wfFrom_cons {lo : Option Nat} {k : Nat} {v : Byte} {m : Memory} :
    Memory.wfFrom lo ((k, v) :: m) = true ↔
      ((∀ l ∈ lo, l < k) ∧ k < Config.pbufSize ∧ v ≠ Config.pbufUnwritten) ∧ Memory.wfFrom (some k) m = true := by
  simp [Memory.wfFrom, and_assoc]

/-- A smaller bound below holds as well. -/
theorem Memory.wfFrom_weaken {m : Memory} {k : Nat} {lo : Option Nat} (hlo : ∀ l ∈ lo, l < k)
    (h : Memory.wfFrom (some k) m = true) : Memory.wfFrom lo m = true := by
  cases m with
  | nil => rfl
  | cons c m =>
    obtain ⟨j, v⟩ := c
    obtain ⟨⟨hj, hv⟩, hm⟩ := Memory.wfFrom_cons.mp h
    exact Memory.wfFrom_cons.mpr ⟨⟨fun l hl => Nat.lt_trans (hlo l hl) (hj k rfl), hv⟩, hm⟩

theorem Memory.wfFrom_insert (m : Memory) (lo : Option Nat) (a : Nat) (b : Byte) (ha : a < Config.pbufSize)
    (hb : b ≠ Config.pbufUnwritten) (hlo : ∀ l ∈ lo, l < a) (h : Memory.wfFrom lo m = true) :
    Memory.wfFrom lo (m.insert a b) = true := by
  induction m generalizing lo with
  | nil => exact Memory.wfFrom_cons.mpr ⟨⟨hlo, ha, hb⟩, rfl⟩
  | cons c m ih =>
    obtain ⟨k, v⟩ := c
    obtain ⟨⟨hk, hkv⟩, hm⟩ := Memory.wfFrom_cons.mp h
    simp only [Memory.insert]
    split
    · rename_i hak
      exact Memory.wfFrom_cons.mpr ⟨⟨hlo, ha, hb⟩,
        Memory.wfFrom_cons.mpr ⟨⟨by intro l hl; cases hl; exact hak, hkv⟩, hm⟩⟩
    · split
      · rename_i heq
        subst heq
        exact Memory.wfFrom_cons.mpr ⟨⟨hlo, ha, hb⟩, hm⟩
      · refine Memory.wfFrom_cons.mpr ⟨⟨hk, hkv⟩, ih (some k) ?_ hm⟩
        intro l hl
        cases hl
        omega

theorem Memory.wfFrom_erase (m : Memory) (lo : Option Nat) (a : Nat) (h : Memory.wfFrom lo m = true) :
    Memory.wfFrom lo (m.erase a) = true := by
  induction m generalizing lo with
  | nil => rfl
  | cons c m ih =>
    obtain ⟨k, v⟩ := c
    obtain ⟨⟨hk, hkv⟩, hm⟩ := Memory.wfFrom_cons.mp h
    simp only [Memory.erase]
    split
    · exact ih lo (Memory.wfFrom_weaken hk hm)
    · exact Memory.wfFrom_cons.mpr ⟨⟨hk, hkv⟩, ih (some k) hm⟩

/-- A write inside PBUF keeps the canonical form. -/
theorem Memory.wf_write (m : Memory) (a : Nat) (b : Byte) (ha : a < Config.pbufSize) (h : m.wf = true) :
    (m.write a b).wf = true := by
  unfold Memory.write
  split
  · exact m.wfFrom_erase none a h
  · exact m.wfFrom_insert none a b ha ‹_› (by intro l hl; cases hl) h

/-- The reset state's buffer has the canonical form. -/
theorem Memory.wf_reset : State.reset.pbuf.wf = true := rfl

/-- A canonical buffer holds nothing at or below its lower bound. -/
theorem Memory.read_of_le {m : Memory} {k i : Nat} (h : Memory.wfFrom (some k) m = true) (hi : i ≤ k) :
    m.read i = Config.pbufUnwritten := by
  induction m generalizing k with
  | nil => rfl
  | cons c m ih =>
    obtain ⟨j, v⟩ := c
    obtain ⟨⟨hj, -⟩, hm⟩ := Memory.wfFrom_cons.mp h
    have hj : k < j := hj k rfl
    rw [Memory.read_cons, if_neg (by omega), ih hm (by omega)]

/-- A canonical buffer holds nothing outside PBUF. -/
theorem Memory.lt_of_read {m : Memory} {lo : Option Nat} {i : Nat} (h : Memory.wfFrom lo m = true)
    (hr : m.read i ≠ Config.pbufUnwritten) : i < Config.pbufSize := by
  induction m generalizing lo with
  | nil => exact absurd rfl hr
  | cons c m ih =>
    obtain ⟨k, v⟩ := c
    obtain ⟨⟨-, hk, -⟩, hm⟩ := Memory.wfFrom_cons.mp h
    by_cases hki : k = i
    · exact hki ▸ hk
    · rw [Memory.read_cons, if_neg hki] at hr
      exact ih hm hr

/-- Canonical buffers with the same bytes are the same data. -/
theorem Memory.eq_of_read_eq {m n : Memory} {lo lo' : Option Nat} (hm : Memory.wfFrom lo m = true)
    (hn : Memory.wfFrom lo' n = true) (h : ∀ i, m.read i = n.read i) : m = n := by
  induction m generalizing n lo lo' with
  | nil =>
    cases n with
    | nil => rfl
    | cons d n =>
      obtain ⟨j, w⟩ := d
      have hw := (Memory.wfFrom_cons.mp hn).1.2.2
      have hj := h j
      rw [Memory.read_cons, if_pos rfl, Memory.read_nil] at hj
      exact absurd hj.symm hw
  | cons c m ih =>
    obtain ⟨k, v⟩ := c
    obtain ⟨⟨-, -, hv⟩, hm⟩ := Memory.wfFrom_cons.mp hm
    cases n with
    | nil =>
      have hk := h k
      rw [Memory.read_cons, if_pos rfl, Memory.read_nil] at hk
      exact absurd hk hv
    | cons d n =>
      obtain ⟨j, w⟩ := d
      obtain ⟨⟨-, -, hw⟩, hns⟩ := Memory.wfFrom_cons.mp hn
      have hkj : k = j := by
        rcases Nat.lt_trichotomy k j with hlt | heq | hlt
        · have hk := h k
          rw [Memory.read_cons, if_pos rfl, Memory.read_cons, if_neg (by omega),
            Memory.read_of_le hns (by omega)] at hk
          exact absurd hk hv
        · exact heq
        · have hj := h j
          rw [Memory.read_cons, if_neg (by omega), Memory.read_cons, if_pos rfl,
            Memory.read_of_le hm (by omega)] at hj
          exact absurd hj.symm hw
      subst hkj
      have hvw : v = w := by simpa using h k
      subst hvw
      refine congrArg _ (ih hm hns fun i => ?_)
      by_cases hi : k = i
      · subst hi
        rw [Memory.read_of_le hm (Nat.le_refl k), Memory.read_of_le hns (Nat.le_refl k)]
      · have := h i
        rwa [Memory.read_cons, if_neg hi, Memory.read_cons, if_neg hi] at this

/-! ### The load and the store -/

/-- A load answers exactly where the index is inside PBUF, with the byte there. -/
theorem loadPbuf_eq_ok {s : State} {i : Nat} {b : Byte} :
    loadPbuf s i = .ok b ↔ i < Config.pbufSize ∧ s.pbuf.read i = b := by
  unfold loadPbuf
  split <;> rename_i hi <;> simp [hi]

/-- A store answers exactly where the index is inside PBUF, and then writes that one byte. -/
theorem storePbuf_eq_ok {s t : State} {i : Nat} {b : Byte} :
    storePbuf s i b = .ok t ↔ i < Config.pbufSize ∧ t = { s with pbuf := s.pbuf.write i b } := by
  unfold storePbuf
  split <;> rename_i hi <;> simp [hi, eq_comm]

end Sys2Proof.Machine
end

