-- ==== Sys2Proof/Laws/State.lean ====
section
/-! SUPPORT. One lemma per field per update of the state, so that no proof unfolds a record update. -/

namespace Sys2Proof.Machine

variable (s : State)

/-! `State.result` writes RSTAT and RVAL (R12). -/

@[simp] theorem State.result_crc (r : RStat) (v : Word) : (s.result r v).crc = s.crc := rfl
@[simp] theorem State.result_devaddr (r : RStat) (v : Word) : (s.result r v).devaddr = s.devaddr := rfl
@[simp] theorem State.result_dstate (r : RStat) (v : Word) : (s.result r v).dstate = s.dstate := rfl
@[simp] theorem State.result_expcnt (r : RStat) (v : Word) : (s.result r v).expcnt = s.expcnt := rfl
@[simp] theorem State.result_hdr0 (r : RStat) (v : Word) : (s.result r v).hdr0 = s.hdr0 := rfl
@[simp] theorem State.result_hdr1 (r : RStat) (v : Word) : (s.result r v).hdr1 = s.hdr1 := rfl
@[simp] theorem State.result_hdr2 (r : RStat) (v : Word) : (s.result r v).hdr2 = s.hdr2 := rfl
@[simp] theorem State.result_dcrc (r : RStat) (v : Word) : (s.result r v).dcrc = s.dcrc := rfl
@[simp] theorem State.result_pcnt (r : RStat) (v : Word) : (s.result r v).pcnt = s.pcnt := rfl
@[simp] theorem State.result_rclo (r : RStat) (v : Word) : (s.result r v).rclo = s.rclo := rfl
@[simp] theorem State.result_errcls (r : RStat) (v : Word) : (s.result r v).errcls = s.errcls := rfl
@[simp] theorem State.result_excode (r : RStat) (v : Word) : (s.result r v).excode = s.excode := rfl
@[simp] theorem State.result_stray (r : RStat) (v : Word) : (s.result r v).stray = s.stray := rfl
@[simp] theorem State.result_pbuf (r : RStat) (v : Word) : (s.result r v).pbuf = s.pbuf := rfl
@[simp] theorem State.result_tx (r : RStat) (v : Word) : (s.result r v).tx = s.tx := rfl
@[simp] theorem State.result_rstat (r : RStat) (v : Word) : (s.result r v).rstat = r := rfl
@[simp] theorem State.result_rval (r : RStat) (v : Word) : (s.result r v).rval = v := rfl
@[simp] theorem State.result_port (r : RStat) (v : Word) : (s.result r v).port = s.port := rfl

/-! `State.fail` writes RSTAT and clears RVAL (R203). -/

@[simp] theorem State.fail_crc (r : RStat) : (s.fail r).crc = s.crc := rfl
@[simp] theorem State.fail_devaddr (r : RStat) : (s.fail r).devaddr = s.devaddr := rfl
@[simp] theorem State.fail_dstate (r : RStat) : (s.fail r).dstate = s.dstate := rfl
@[simp] theorem State.fail_expcnt (r : RStat) : (s.fail r).expcnt = s.expcnt := rfl
@[simp] theorem State.fail_hdr0 (r : RStat) : (s.fail r).hdr0 = s.hdr0 := rfl
@[simp] theorem State.fail_hdr1 (r : RStat) : (s.fail r).hdr1 = s.hdr1 := rfl
@[simp] theorem State.fail_hdr2 (r : RStat) : (s.fail r).hdr2 = s.hdr2 := rfl
@[simp] theorem State.fail_dcrc (r : RStat) : (s.fail r).dcrc = s.dcrc := rfl
@[simp] theorem State.fail_pcnt (r : RStat) : (s.fail r).pcnt = s.pcnt := rfl
@[simp] theorem State.fail_rclo (r : RStat) : (s.fail r).rclo = s.rclo := rfl
@[simp] theorem State.fail_errcls (r : RStat) : (s.fail r).errcls = s.errcls := rfl
@[simp] theorem State.fail_excode (r : RStat) : (s.fail r).excode = s.excode := rfl
@[simp] theorem State.fail_stray (r : RStat) : (s.fail r).stray = s.stray := rfl
@[simp] theorem State.fail_pbuf (r : RStat) : (s.fail r).pbuf = s.pbuf := rfl
@[simp] theorem State.fail_tx (r : RStat) : (s.fail r).tx = s.tx := rfl
@[simp] theorem State.fail_rstat (r : RStat) : (s.fail r).rstat = r := rfl
@[simp] theorem State.fail_rval (r : RStat) : (s.fail r).rval = 0#32 := rfl
@[simp] theorem State.fail_port (r : RStat) : (s.fail r).port = s.port := rfl

/-! `State.emit` appends to TX (R37). -/

@[simp] theorem State.emit_crc (bs : List Byte) : (s.emit bs).crc = s.crc := rfl
@[simp] theorem State.emit_devaddr (bs : List Byte) : (s.emit bs).devaddr = s.devaddr := rfl
@[simp] theorem State.emit_dstate (bs : List Byte) : (s.emit bs).dstate = s.dstate := rfl
@[simp] theorem State.emit_expcnt (bs : List Byte) : (s.emit bs).expcnt = s.expcnt := rfl
@[simp] theorem State.emit_hdr0 (bs : List Byte) : (s.emit bs).hdr0 = s.hdr0 := rfl
@[simp] theorem State.emit_hdr1 (bs : List Byte) : (s.emit bs).hdr1 = s.hdr1 := rfl
@[simp] theorem State.emit_hdr2 (bs : List Byte) : (s.emit bs).hdr2 = s.hdr2 := rfl
@[simp] theorem State.emit_dcrc (bs : List Byte) : (s.emit bs).dcrc = s.dcrc := rfl
@[simp] theorem State.emit_pcnt (bs : List Byte) : (s.emit bs).pcnt = s.pcnt := rfl
@[simp] theorem State.emit_rclo (bs : List Byte) : (s.emit bs).rclo = s.rclo := rfl
@[simp] theorem State.emit_errcls (bs : List Byte) : (s.emit bs).errcls = s.errcls := rfl
@[simp] theorem State.emit_excode (bs : List Byte) : (s.emit bs).excode = s.excode := rfl
@[simp] theorem State.emit_stray (bs : List Byte) : (s.emit bs).stray = s.stray := rfl
@[simp] theorem State.emit_pbuf (bs : List Byte) : (s.emit bs).pbuf = s.pbuf := rfl
@[simp] theorem State.emit_tx (bs : List Byte) : (s.emit bs).tx = s.tx ++ bs := rfl
@[simp] theorem State.emit_rstat (bs : List Byte) : (s.emit bs).rstat = s.rstat := rfl
@[simp] theorem State.emit_rval (bs : List Byte) : (s.emit bs).rval = s.rval := rfl
@[simp] theorem State.emit_port (bs : List Byte) : (s.emit bs).port = s.port := rfl

/-! `State.takeTx` removes the head of TX (R37). -/

@[simp] theorem State.takeTx_crc : (s.takeTx).crc = s.crc := rfl
@[simp] theorem State.takeTx_devaddr : (s.takeTx).devaddr = s.devaddr := rfl
@[simp] theorem State.takeTx_dstate : (s.takeTx).dstate = s.dstate := rfl
@[simp] theorem State.takeTx_expcnt : (s.takeTx).expcnt = s.expcnt := rfl
@[simp] theorem State.takeTx_hdr0 : (s.takeTx).hdr0 = s.hdr0 := rfl
@[simp] theorem State.takeTx_hdr1 : (s.takeTx).hdr1 = s.hdr1 := rfl
@[simp] theorem State.takeTx_hdr2 : (s.takeTx).hdr2 = s.hdr2 := rfl
@[simp] theorem State.takeTx_dcrc : (s.takeTx).dcrc = s.dcrc := rfl
@[simp] theorem State.takeTx_pcnt : (s.takeTx).pcnt = s.pcnt := rfl
@[simp] theorem State.takeTx_rclo : (s.takeTx).rclo = s.rclo := rfl
@[simp] theorem State.takeTx_errcls : (s.takeTx).errcls = s.errcls := rfl
@[simp] theorem State.takeTx_excode : (s.takeTx).excode = s.excode := rfl
@[simp] theorem State.takeTx_stray : (s.takeTx).stray = s.stray := rfl
@[simp] theorem State.takeTx_pbuf : (s.takeTx).pbuf = s.pbuf := rfl
@[simp] theorem State.takeTx_tx : (s.takeTx).tx = s.tx.drop 1 := rfl
@[simp] theorem State.takeTx_rstat : (s.takeTx).rstat = s.rstat := rfl
@[simp] theorem State.takeTx_rval : (s.takeTx).rval = s.rval := rfl
@[simp] theorem State.takeTx_port : (s.takeTx).port = s.port := rfl

/-! `State.arm` (R134). -/

@[simp] theorem State.arm_crc (words : Byte) : (s.arm words).crc = s.crc := rfl
@[simp] theorem State.arm_devaddr (words : Byte) : (s.arm words).devaddr = s.devaddr := rfl
@[simp] theorem State.arm_dstate (words : Byte) : (s.arm words).dstate = .awAddr := rfl
@[simp] theorem State.arm_expcnt (words : Byte) : (s.arm words).expcnt = 2#8 * words := rfl
@[simp] theorem State.arm_hdr0 (words : Byte) : (s.arm words).hdr0 = 0#8 := rfl
@[simp] theorem State.arm_hdr1 (words : Byte) : (s.arm words).hdr1 = 0#8 := rfl
@[simp] theorem State.arm_hdr2 (words : Byte) : (s.arm words).hdr2 = 0#8 := rfl
@[simp] theorem State.arm_dcrc (words : Byte) : (s.arm words).dcrc = Config.crcSeed := rfl
@[simp] theorem State.arm_pcnt (words : Byte) : (s.arm words).pcnt = 0#8 := rfl
@[simp] theorem State.arm_rclo (words : Byte) : (s.arm words).rclo = 0#8 := rfl
@[simp] theorem State.arm_errcls (words : Byte) : (s.arm words).errcls = .noError := rfl
@[simp] theorem State.arm_excode (words : Byte) : (s.arm words).excode = 0#8 := rfl
@[simp] theorem State.arm_stray (words : Byte) : (s.arm words).stray = false := rfl
@[simp] theorem State.arm_pbuf (words : Byte) : (s.arm words).pbuf = s.pbuf := rfl
@[simp] theorem State.arm_tx (words : Byte) : (s.arm words).tx = s.tx := rfl
@[simp] theorem State.arm_rstat (words : Byte) : (s.arm words).rstat = s.rstat := rfl
@[simp] theorem State.arm_rval (words : Byte) : (s.arm words).rval = s.rval := rfl
@[simp] theorem State.arm_port (words : Byte) : (s.arm words).port = s.port := rfl

/-! `State.clearDecoder` (R164). -/

@[simp] theorem State.clearDecoder_crc : (s.clearDecoder).crc = s.crc := rfl
@[simp] theorem State.clearDecoder_devaddr : (s.clearDecoder).devaddr = s.devaddr := rfl
@[simp] theorem State.clearDecoder_dstate : (s.clearDecoder).dstate = .idle := rfl
@[simp] theorem State.clearDecoder_expcnt : (s.clearDecoder).expcnt = 0#8 := rfl
@[simp] theorem State.clearDecoder_hdr0 : (s.clearDecoder).hdr0 = 0#8 := rfl
@[simp] theorem State.clearDecoder_hdr1 : (s.clearDecoder).hdr1 = 0#8 := rfl
@[simp] theorem State.clearDecoder_hdr2 : (s.clearDecoder).hdr2 = 0#8 := rfl
@[simp] theorem State.clearDecoder_dcrc : (s.clearDecoder).dcrc = Config.crcSeed := rfl
@[simp] theorem State.clearDecoder_pcnt : (s.clearDecoder).pcnt = 0#8 := rfl
@[simp] theorem State.clearDecoder_rclo : (s.clearDecoder).rclo = 0#8 := rfl
@[simp] theorem State.clearDecoder_errcls : (s.clearDecoder).errcls = .noError := rfl
@[simp] theorem State.clearDecoder_excode : (s.clearDecoder).excode = 0#8 := rfl
@[simp] theorem State.clearDecoder_stray : (s.clearDecoder).stray = false := rfl
@[simp] theorem State.clearDecoder_pbuf : (s.clearDecoder).pbuf = s.pbuf := rfl
@[simp] theorem State.clearDecoder_tx : (s.clearDecoder).tx = s.tx := rfl
@[simp] theorem State.clearDecoder_rstat : (s.clearDecoder).rstat = s.rstat := rfl
@[simp] theorem State.clearDecoder_rval : (s.clearDecoder).rval = s.rval := rfl
@[simp] theorem State.clearDecoder_port : (s.clearDecoder).port = s.port := rfl

/-! `State.frameError` (R152). -/

@[simp] theorem State.frameError_crc (cls : ErrCls) : (s.frameError cls).crc = s.crc := rfl
@[simp] theorem State.frameError_devaddr (cls : ErrCls) : (s.frameError cls).devaddr = s.devaddr := rfl
@[simp] theorem State.frameError_dstate (cls : ErrCls) : (s.frameError cls).dstate = .err := rfl
@[simp] theorem State.frameError_expcnt (cls : ErrCls) : (s.frameError cls).expcnt = s.expcnt := rfl
@[simp] theorem State.frameError_hdr0 (cls : ErrCls) : (s.frameError cls).hdr0 = s.hdr0 := rfl
@[simp] theorem State.frameError_hdr1 (cls : ErrCls) : (s.frameError cls).hdr1 = s.hdr1 := rfl
@[simp] theorem State.frameError_hdr2 (cls : ErrCls) : (s.frameError cls).hdr2 = s.hdr2 := rfl
@[simp] theorem State.frameError_dcrc (cls : ErrCls) : (s.frameError cls).dcrc = s.dcrc := rfl
@[simp] theorem State.frameError_pcnt (cls : ErrCls) : (s.frameError cls).pcnt = s.pcnt := rfl
@[simp] theorem State.frameError_rclo (cls : ErrCls) : (s.frameError cls).rclo = s.rclo := rfl
@[simp] theorem State.frameError_errcls (cls : ErrCls) : (s.frameError cls).errcls = cls := rfl
@[simp] theorem State.frameError_excode (cls : ErrCls) : (s.frameError cls).excode = s.excode := rfl
@[simp] theorem State.frameError_stray (cls : ErrCls) : (s.frameError cls).stray = s.stray := rfl
@[simp] theorem State.frameError_pbuf (cls : ErrCls) : (s.frameError cls).pbuf = s.pbuf := rfl
@[simp] theorem State.frameError_tx (cls : ErrCls) : (s.frameError cls).tx = s.tx := rfl
@[simp] theorem State.frameError_rstat (cls : ErrCls) : (s.frameError cls).rstat = s.rstat := rfl
@[simp] theorem State.frameError_rval (cls : ErrCls) : (s.frameError cls).rval = s.rval := rfl
@[simp] theorem State.frameError_port (cls : ErrCls) : (s.frameError cls).port = s.port := rfl

/-! `State.advanceDcrc` (R30). -/

@[simp] theorem State.advanceDcrc_crc (b : Byte) : (s.advanceDcrc b).crc = s.crc := rfl
@[simp] theorem State.advanceDcrc_devaddr (b : Byte) : (s.advanceDcrc b).devaddr = s.devaddr := rfl
@[simp] theorem State.advanceDcrc_dstate (b : Byte) : (s.advanceDcrc b).dstate = s.dstate := rfl
@[simp] theorem State.advanceDcrc_expcnt (b : Byte) : (s.advanceDcrc b).expcnt = s.expcnt := rfl
@[simp] theorem State.advanceDcrc_hdr0 (b : Byte) : (s.advanceDcrc b).hdr0 = s.hdr0 := rfl
@[simp] theorem State.advanceDcrc_hdr1 (b : Byte) : (s.advanceDcrc b).hdr1 = s.hdr1 := rfl
@[simp] theorem State.advanceDcrc_hdr2 (b : Byte) : (s.advanceDcrc b).hdr2 = s.hdr2 := rfl
@[simp] theorem State.advanceDcrc_dcrc (b : Byte) : (s.advanceDcrc b).dcrc = crcUpdate s.dcrc b := rfl
@[simp] theorem State.advanceDcrc_pcnt (b : Byte) : (s.advanceDcrc b).pcnt = s.pcnt := rfl
@[simp] theorem State.advanceDcrc_rclo (b : Byte) : (s.advanceDcrc b).rclo = s.rclo := rfl
@[simp] theorem State.advanceDcrc_errcls (b : Byte) : (s.advanceDcrc b).errcls = s.errcls := rfl
@[simp] theorem State.advanceDcrc_excode (b : Byte) : (s.advanceDcrc b).excode = s.excode := rfl
@[simp] theorem State.advanceDcrc_stray (b : Byte) : (s.advanceDcrc b).stray = s.stray := rfl
@[simp] theorem State.advanceDcrc_pbuf (b : Byte) : (s.advanceDcrc b).pbuf = s.pbuf := rfl
@[simp] theorem State.advanceDcrc_tx (b : Byte) : (s.advanceDcrc b).tx = s.tx := rfl
@[simp] theorem State.advanceDcrc_rstat (b : Byte) : (s.advanceDcrc b).rstat = s.rstat := rfl
@[simp] theorem State.advanceDcrc_rval (b : Byte) : (s.advanceDcrc b).rval = s.rval := rfl
@[simp] theorem State.advanceDcrc_port (b : Byte) : (s.advanceDcrc b).port = s.port := rfl

/-! `State.applyReset` (R230, R231). -/

@[simp] theorem State.applyReset_crc : (s.applyReset).crc = State.reset.crc := rfl
@[simp] theorem State.applyReset_devaddr : (s.applyReset).devaddr = State.reset.devaddr := rfl
@[simp] theorem State.applyReset_dstate : (s.applyReset).dstate = State.reset.dstate := rfl
@[simp] theorem State.applyReset_expcnt : (s.applyReset).expcnt = State.reset.expcnt := rfl
@[simp] theorem State.applyReset_hdr0 : (s.applyReset).hdr0 = State.reset.hdr0 := rfl
@[simp] theorem State.applyReset_hdr1 : (s.applyReset).hdr1 = State.reset.hdr1 := rfl
@[simp] theorem State.applyReset_hdr2 : (s.applyReset).hdr2 = State.reset.hdr2 := rfl
@[simp] theorem State.applyReset_dcrc : (s.applyReset).dcrc = State.reset.dcrc := rfl
@[simp] theorem State.applyReset_pcnt : (s.applyReset).pcnt = State.reset.pcnt := rfl
@[simp] theorem State.applyReset_rclo : (s.applyReset).rclo = State.reset.rclo := rfl
@[simp] theorem State.applyReset_errcls : (s.applyReset).errcls = State.reset.errcls := rfl
@[simp] theorem State.applyReset_excode : (s.applyReset).excode = State.reset.excode := rfl
@[simp] theorem State.applyReset_stray : (s.applyReset).stray = State.reset.stray := rfl
@[simp] theorem State.applyReset_pbuf : (s.applyReset).pbuf = State.reset.pbuf := rfl
@[simp] theorem State.applyReset_tx : (s.applyReset).tx = s.tx := rfl
@[simp] theorem State.applyReset_rstat : (s.applyReset).rstat = State.reset.rstat := rfl
@[simp] theorem State.applyReset_rval : (s.applyReset).rval = State.reset.rval := rfl
@[simp] theorem State.applyReset_port : (s.applyReset).port = s.port := rfl

/-! What is composed from the state does not see the result interface (R38, R27). -/

@[simp] theorem State.result_status (r : RStat) (v : Word) : (s.result r v).status = s.status := rfl
@[simp] theorem State.result_busy (r : RStat) (v : Word) : (s.result r v).busy = s.busy := rfl
@[simp] theorem State.result_result (r r' : RStat) (v v' : Word) : (s.result r v).result r' v' = s.result r' v' := rfl
@[simp] theorem State.emit_busy (bs : List Byte) : (s.emit bs).busy = s.busy := rfl
@[simp] theorem State.arm_busy (words : Byte) : (s.arm words).busy = true := rfl
@[simp] theorem State.clearDecoder_busy : s.clearDecoder.busy = false := rfl
@[simp] theorem State.frameError_busy (cls : ErrCls) : (s.frameError cls).busy = false := rfl

/-- Fetching the placed word takes it from the port and leaves the state as it was (R59). -/
@[simp] theorem State.nextEvent_withFetchWord (nbits w : Nat) :
    nextEvent (s.withFetchWord nbits w) = some (.command (tableWord nbits w), s) := rfl

end Sys2Proof.Machine
end

