-- ==== Sys2Proof/Laws/Decoder.lean ====
section
/-! SUPPORT. What the decoder can do with a received byte, said once for each of its operations. -/

namespace Sys2Proof.Machine

/-- The state after a payload byte is stored and counted (R156). -/
def payloadReceived (b : Byte) (s : State) : State :=
  countPayload ({ s with pbuf := s.pbuf.write s.pcnt.toNat b }.advanceDcrc b)

/-- `rx_pay` answers exactly where PCNT is an index of PBUF. -/
theorem rxPay_eq_ok {b : Byte} {s t : State} :
    rxPay b s = .ok t ↔ s.pcnt.toNat < Config.pbufSize ∧ t = payloadReceived b s := by
  unfold rxPay storePbuf payloadReceived
  by_cases h : s.pcnt.toNat < Config.pbufSize <;> simp [h, eq_comm]

/-- The five outcomes of the header checks (R155). -/
theorem checkHeader_cases (s : State) :
    (s.hdr0 ≠ s.devaddr ∧ checkHeader s = s.frameError .addrMismatch) ∨
    (s.hdr0 = s.devaddr ∧ s.hdr1 = Config.funcException ∧ checkHeader s = { s with dstate := .awXCrcLo }) ∨
    (s.hdr0 = s.devaddr ∧ s.hdr1 ≠ Config.funcException ∧ s.hdr1 ≠ Config.funcRead ∧
      checkHeader s = s.frameError .badFunc) ∨
    (s.hdr0 = s.devaddr ∧ s.hdr1 = Config.funcRead ∧ byteLenOk s.hdr2 = true ∧
      checkHeader s = { s with pcnt := 0#8, dstate := .awPay }) ∨
    (s.hdr0 = s.devaddr ∧ s.hdr1 = Config.funcRead ∧ byteLenOk s.hdr2 = false ∧
      checkHeader s = s.frameError .frameSize) := by
  have hfun : Config.funcRead ≠ Config.funcException := by decide
  unfold checkHeader
  split
  · exact .inl ⟨‹_›, rfl⟩
  · rename_i h0
    have h0 := not_not.mp h0
    split
    · exact .inr (.inl ⟨h0, ‹_›, rfl⟩)
    · rename_i h1
      split
      · exact .inr (.inr (.inl ⟨h0, h1, ‹_›, rfl⟩))
      · rename_i h2
        split
        · exact .inr (.inr (.inr (.inl ⟨h0, not_not.mp h2, ‹_›, rfl⟩)))
        · rename_i h3
          exact .inr (.inr (.inr (.inr ⟨h0, not_not.mp h2, Bool.eq_false_iff.mpr h3, rfl⟩)))

/-- The three outcomes of a normal response's last byte (R158). -/
theorem rxCrcHi_cases (b : Byte) (s : State) :
    (hiLo b s.rclo ≠ s.dcrc ∧ rxCrcHi b s = s.frameError .crcMismatch) ∨
    (hiLo b s.rclo = s.dcrc ∧ s.hdr2 ≠ s.expcnt ∧ rxCrcHi b s = s.frameError .lenMismatch) ∨
    (hiLo b s.rclo = s.dcrc ∧ s.hdr2 = s.expcnt ∧ rxCrcHi b s = { s with dstate := .done }) := by
  unfold rxCrcHi
  by_cases hc : hiLo b s.rclo = s.dcrc <;> by_cases hl : s.hdr2 = s.expcnt <;> simp [hc, hl]

/-- The two outcomes of an exception response's last byte (R160). -/
theorem rxXCrcHi_cases (b : Byte) (s : State) :
    (hiLo b s.rclo ≠ s.dcrc ∧ rxXCrcHi b s = s.frameError .crcMismatch) ∨
    (hiLo b s.rclo = s.dcrc ∧ rxXCrcHi b s = { s with excode := s.hdr2 }.frameError .device) := by
  unfold rxXCrcHi
  by_cases hc : hiLo b s.rclo = s.dcrc <;> simp [hc]

/-- What a received byte does, one case for each state of the decoder (R151). -/
theorem receive_cases {b : Byte} {s t : State} (h : receive b s = .ok t) :
    (s.busy = false ∧ t = rxStray b s) ∨
    (s.dstate = .awAddr ∧ t = rxAddr b s) ∨
    (s.dstate = .awFunc ∧ t = rxFunc b s) ∨
    (s.dstate = .awB2 ∧ t = checkHeader { s.advanceDcrc b with hdr2 := b }) ∨
    (s.dstate = .awPay ∧ s.pcnt.toNat < Config.pbufSize ∧ t = payloadReceived b s) ∨
    (s.dstate = .awCrcLo ∧ t = rxCrcLo b s) ∨
    (s.dstate = .awCrcHi ∧ t = rxCrcHi b s) ∨
    (s.dstate = .awXCrcLo ∧ t = rxXCrcLo b s) ∨
    (s.dstate = .awXCrcHi ∧ t = rxXCrcHi b s) := by
  unfold receive at h
  cases hd : s.dstate <;> simp only [hd] at h
  case awPay => have := rxPay_eq_ok.mp h; simp [this]
  all_goals (cases h; simp [State.busy, dstateBusy, hd, rxB2])

end Sys2Proof.Machine
end

