-- ==== Sys2Proof/Laws/Exec.lean ====
section
/-! SUPPORT. What each command does when it answers a next state, said once: proofs about every command take these
cases instead of unfolding a meaning. -/

namespace Sys2Proof.Machine

theorem execCrcInit_cases {s t : State} (h : exec .crcInit s = .next t) :
    t = { s with crc := Config.crcSeed }.result .ok (zextHalf Config.crcSeed) := by
  cases h; rfl

theorem execCrcByte_cases {b : Byte} {s t : State} (h : exec (.crcByte b) s = .next t) :
    t = { s with crc := crcUpdate s.crc b }.result .ok (zextHalf (crcUpdate s.crc b)) := by
  cases h; rfl

theorem execCrcRead_cases {s t : State} (h : exec .crcRead s = .next t) : t = s.result .ok (zextHalf s.crc) := by
  cases h; rfl

theorem execCrcCheck_cases {lo hi : Byte} {s t : State} (h : exec (.crcCheck lo hi) s = .next t) :
    t = s.result .ok (if s.crc = hiLo hi lo then 1#32 else 0#32) := by
  cases h; rfl

theorem execEncRd_cases {a : Half} {w : Byte} {s t : State} (h : exec (.encRd a w) s = .next t) :
    (reqArgsOk a w = true ∧ t = sendRequest s a w) ∨ (reqArgsOk a w = false ∧ t = s.fail .arg) := by
  simp only [exec, execEncRd] at h
  split at h <;> cases h <;> simp_all

theorem execXchRd_cases {a : Half} {w : Byte} {s t : State} (h : exec (.xchRd a w) s = .next t) :
    (s.busy = true ∧ t = s.fail .busy) ∨
    (s.busy = false ∧ reqArgsOk a w = true ∧ t = (sendRequest s a w).arm w) ∨
    (s.busy = false ∧ reqArgsOk a w = false ∧ t = s.fail .arg) := by
  simp only [exec, execXchRd] at h
  split at h
  · cases h; simp_all
  · split at h <;> cases h <;> simp_all

theorem execDecByte_cases {b : Byte} {s t : State} (h : exec (.decByte b) s = .next t) :
    ∃ u, receive b s = .ok u ∧ t = u.result .ok u.status := by
  simp only [exec, execDecByte] at h
  split at h
  · cases h; exact ⟨_, ‹_›, rfl⟩
  · cases h

theorem execDecAbort_cases {s t : State} (h : exec .decAbort s = .next t) :
    t = s.clearDecoder.result .ok 0#32 := by
  cases h; rfl

theorem execDecRdbuf_cases {i : Byte} {s t : State} (h : exec (.decRdbuf i) s = .next t) :
    (s.dstate ≠ .done ∧ t = s.fail .notReady) ∨
    (s.dstate = .done ∧ s.pcnt.toNat ≤ i.toNat ∧ t = s.fail .arg) ∨
    (s.dstate = .done ∧ i.toNat < s.pcnt.toNat ∧
      i.toNat < Config.pbufSize ∧ t = s.result .ok (zextByte (s.pbuf.read i.toNat))) := by
  simp only [exec, execDecRdbuf] at h
  split at h
  · cases h; simp_all
  · rename_i hd
    have hd := not_not.mp hd
    split at h
    · cases h; exact .inr (.inl ⟨hd, ‹_›, rfl⟩)
    · split at h
      · rename_i hi _ _ hb
        cases h
        have hb := loadPbuf_eq_ok.mp hb
        exact .inr (.inr ⟨hd, Nat.lt_of_not_le hi, hb.1, by rw [hb.2]⟩)
      · cases h

theorem execDecStatus_cases {s t : State} (h : exec .decStatus s = .next t) : t = s.result .ok s.status := by
  cases h; rfl

theorem execCfgSetaddr_cases {a : Byte} {s t : State} (h : exec (.cfgSetaddr a) s = .next t) :
    (s.busy = true ∧ t = s.fail .busy) ∨
    (s.busy = false ∧ addrOk a = true ∧ t = { s with devaddr := a }.result .ok (zextByte a)) ∨
    (s.busy = false ∧ addrOk a = false ∧ t = s.fail .arg) := by
  simp only [exec, execCfgSetaddr] at h
  split at h
  · cases h; simp_all
  · split at h <;> cases h <;> simp_all

theorem execCfgGetaddr_cases {s t : State} (h : exec .cfgGetaddr s = .next t) :
    t = s.result .ok (zextByte s.devaddr) := by
  cases h; rfl

end Sys2Proof.Machine
end

