-- ==== Sys2Proof/Laws/Operands.lean ====
section
/-! SUPPORT. The operand helpers as arithmetic on numbers: halves, concatenation and the legal ranges. -/

namespace Sys2Proof.Machine

@[simp] theorem zext16_toNat (b : Byte) : (zext16 b).toNat = b.toNat := by
  have := b.isLt
  simp only [zext16, BitVec.toNat_setWidth]
  omega

theorem lo8_toNat (v : Half) : (lo8 v).toNat = v.toNat % 256 := by simp [lo8]

theorem hi8_toNat (v : Half) : (hi8 v).toNat = v.toNat / 256 := by
  have := v.isLt
  simp only [hi8, BitVec.extractLsb'_toNat, Nat.shiftRight_eq_div_pow]
  omega

/-- `hi:lo` as a number (R12). -/
theorem hiLo_toNat (hi lo : Byte) : (hiLo hi lo).toNat = hi.toNat * 256 + lo.toNat := by
  have := hi.isLt
  have := lo.isLt
  rw [hiLo, BitVec.toNat_or, BitVec.toNat_shiftLeft, zext16_toNat, zext16_toNat, Nat.shiftLeft_eq,
    Nat.mod_eq_of_lt (by omega), or_eq_add (k := 8) (by omega) (by omega)]

/-- The two halves of a value put it together again (R12). -/
@[simp] theorem hiLo_hi8_lo8 (v : Half) : hiLo (hi8 v) (lo8 v) = v := by
  apply BitVec.eq_of_toNat_eq
  rw [hiLo_toNat, hi8_toNat, lo8_toNat]
  omega

theorem reqArgsOk_eq_true {start : Half} {words : Byte} :
    reqArgsOk start words = true ↔ start.toNat ≤ 0x1000 ∧ 1 ≤ words.toNat ∧ words.toNat ≤ 0x7D := by
  simp only [reqArgsOk, Bool.and_eq_true, decide_eq_true_eq, and_assoc]
  rfl

theorem reqArgsOk_eq_false {start : Half} {words : Byte} :
    reqArgsOk start words = false ↔ 0x1000 < start.toNat ∨ words.toNat = 0 ∨ 0x7D < words.toNat := by
  rw [← Bool.not_eq_true, reqArgsOk_eq_true]
  omega

theorem addrOk_eq_true {a : Byte} : addrOk a = true ↔ 1 ≤ a.toNat ∧ a.toNat ≤ 0xF7 := by
  simp only [addrOk, Bool.and_eq_true, decide_eq_true_eq]
  rfl

theorem addrOk_eq_false {a : Byte} : addrOk a = false ↔ a.toNat = 0 ∨ 0xF7 < a.toNat := by
  rw [← Bool.not_eq_true, addrOk_eq_true]
  omega

theorem byteLenOk_eq_true {n : Byte} : byteLenOk n = true ↔ 1 ≤ n.toNat ∧ n.toNat ≤ 0xFA := by
  simp only [byteLenOk, Bool.and_eq_true, decide_eq_true_eq]
  rfl

theorem byteLenOk_eq_false {n : Byte} : byteLenOk n = false ↔ n.toNat = 0 ∨ 0xFA < n.toNat := by
  rw [← Bool.not_eq_true, byteLenOk_eq_true]
  omega

end Sys2Proof.Machine
end

