-- ==== Sys2Proof/Laws/PerInstr.lean ====
section
/-! SUPPORT. Facts about every command as syntax, one lemma per constructor of `Instr`. -/

namespace Sys2Proof.Laws

/-- The source form of a command is within the encodable ranges, and the assembler reads it back as the command
(R83). -/
def SourceForm.Statement (i : Instr) : Prop :=
  i.wellFormed = true ∧ Machine.assembleCommand i.toSource = some i

theorem byteOperand_toNat (b : Byte) : Machine.byteOperand b.toNat = some b := by
  simp [Machine.byteOperand, b.isLt]

theorem halfOperand_toNat (v : Half) : Machine.halfOperand v.toNat = some v := by
  simp [Machine.halfOperand, v.isLt]

theorem SourceForm.crcInit : SourceForm.Statement .crcInit := ⟨rfl, rfl⟩

theorem SourceForm.crcByte (b : Byte) : SourceForm.Statement (.crcByte b) := by
  constructor
  · simp [Instr.wellFormed, SourceCommand.wellFormed, Instr.toSource, Mnemonic.operandBounds, withinBounds, b.isLt]
  · simp [Machine.assembleCommand, Instr.toSource, byteOperand_toNat]

theorem SourceForm.crcRead : SourceForm.Statement .crcRead := ⟨rfl, rfl⟩

theorem SourceForm.crcCheck (lo hi : Byte) : SourceForm.Statement (.crcCheck lo hi) := by
  constructor
  · simp [Instr.wellFormed, SourceCommand.wellFormed, Instr.toSource, Mnemonic.operandBounds, withinBounds, lo.isLt, hi.isLt]
  · simp [Machine.assembleCommand, Instr.toSource, byteOperand_toNat]

theorem SourceForm.encRd (start : Half) (words : Byte) : SourceForm.Statement (.encRd start words) := by
  constructor
  · simp [Instr.wellFormed, SourceCommand.wellFormed, Instr.toSource, Mnemonic.operandBounds, withinBounds, start.isLt, words.isLt]
  · simp [Machine.assembleCommand, Instr.toSource, byteOperand_toNat, halfOperand_toNat]

theorem SourceForm.xchRd (start : Half) (words : Byte) : SourceForm.Statement (.xchRd start words) := by
  constructor
  · simp [Instr.wellFormed, SourceCommand.wellFormed, Instr.toSource, Mnemonic.operandBounds, withinBounds, start.isLt, words.isLt]
  · simp [Machine.assembleCommand, Instr.toSource, byteOperand_toNat, halfOperand_toNat]

theorem SourceForm.decByte (b : Byte) : SourceForm.Statement (.decByte b) := by
  constructor
  · simp [Instr.wellFormed, SourceCommand.wellFormed, Instr.toSource, Mnemonic.operandBounds, withinBounds, b.isLt]
  · simp [Machine.assembleCommand, Instr.toSource, byteOperand_toNat]

theorem SourceForm.decAbort : SourceForm.Statement .decAbort := ⟨rfl, rfl⟩

theorem SourceForm.decRdbuf (i : Byte) : SourceForm.Statement (.decRdbuf i) := by
  constructor
  · simp [Instr.wellFormed, SourceCommand.wellFormed, Instr.toSource, Mnemonic.operandBounds, withinBounds, i.isLt]
  · simp [Machine.assembleCommand, Instr.toSource, byteOperand_toNat]

theorem SourceForm.decStatus : SourceForm.Statement .decStatus := ⟨rfl, rfl⟩

theorem SourceForm.cfgSetaddr (a : Byte) : SourceForm.Statement (.cfgSetaddr a) := by
  constructor
  · simp [Instr.wellFormed, SourceCommand.wellFormed, Instr.toSource, Mnemonic.operandBounds, withinBounds, a.isLt]
  · simp [Machine.assembleCommand, Instr.toSource, byteOperand_toNat]

theorem SourceForm.cfgGetaddr : SourceForm.Statement .cfgGetaddr := ⟨rfl, rfl⟩

end Sys2Proof.Laws
end

