-- ==== Sys2Proof/Laws/Step.lean ====
section
/-! SUPPORT. What one step can do, and how a sequence of commands runs. -/

namespace Sys2Proof.Machine

/-- The cases of one step, by the host's next event (R59). -/
theorem step_cases {s t : State} (h : step s = .next t) :
    (s.port = [] ∧ t = s) ∨
    (∃ rest, s.port = .takeTx :: rest ∧ t = { s with port := rest }.takeTx) ∨
    (∃ rest, s.port = .reset :: rest ∧ t = { s with port := rest }.applyReset) ∨
    (∃ w rest, s.port = .command w :: rest ∧ decode w = none ∧ t = { s with port := rest }.fail .illegal) ∨
    (∃ w rest i, s.port = .command w :: rest ∧ decode w = some i ∧ exec i { s with port := rest } = .next t) := by
  unfold step nextEvent at h
  cases hp : s.port with
  | nil => simp only [hp] at h; cases h; exact .inl ⟨rfl, rfl⟩
  | cons e rest =>
    simp only [hp] at h
    cases e with
    | takeTx => cases h; exact .inr (.inl ⟨rest, rfl, rfl⟩)
    | reset => cases h; exact .inr (.inr (.inl ⟨rest, rfl, rfl⟩))
    | command w =>
      simp only [runWord] at h
      cases hw : decode w with
      | none => simp only [hw] at h; cases h; exact .inr (.inr (.inr (.inl ⟨w, rest, rfl, hw, rfl⟩)))
      | some i => simp only [hw] at h; exact .inr (.inr (.inr (.inr ⟨w, rest, i, rfl, hw, h⟩)))

@[simp] theorem execAll_nil (s : State) : execAll [] s = .next s := rfl

/-- A command that answers hands its state to the rest of the sequence. -/
theorem execAll_cons_next {i : Instr} {is : List Instr} {s t : State} (h : exec i s = .next t) :
    execAll (i :: is) s = execAll is t := by
  simp only [execAll, h]

/-- Two sequences one after the other. -/
theorem execAll_append_next {is js : List Instr} {s t : State} (h : execAll is s = .next t) :
    execAll (is ++ js) s = execAll js t := by
  induction is generalizing s with
  | nil => cases h; rfl
  | cons i is ih =>
    simp only [execAll] at h
    cases hi : exec i s with
    | next u => simp only [hi] at h; rw [List.cons_append, execAll_cons_next hi]; exact ih h
    | fault f => simp only [hi] at h; cases h
    | refused r => simp only [hi] at h; cases h

end Sys2Proof.Machine
end

