-- ==== Sys2Proof/Tests/Slice0.lean ====
section
/-! SUPPORT. Tests with expected values from the spec (95_test_vectors.md, 30_encoding.md R83, the examples of the
command rules), and a witness for every statement with hypotheses, at the boundaries of its clauses. -/

namespace Sys2Proof.Tests

open Sys2Proof Sys2Proof.Machine

-- One theorem is checked at a time, so that the checking threads stay within the check's memory limit.
set_option Elab.async false

/-! ### Helpers -/

/-- The state in which the host issues a command word next. -/
def sending (w : Word) (s : State) : State := { s with port := [.command w] }

/-- The step answers a next state of which the test holds. -/
def stepShows (p : State → Bool) (s : State) : Bool :=
  match step s with
  | .next t => p t
  | .fault _ => false
  | .refused _ => false

/-- The command's result is RSTAT `r` and RVAL `v`. -/
def returns (r : RStat) (v : Word) (t : State) : Bool := t.rstat == r && t.rval == v

/-- The reset state with an accumulator. -/
def withCrc (c : Half) : State := { State.reset with crc := c }

/-- The reset state with a decoder state. -/
def inState (d : DState) : State := { State.reset with dstate := d }

/-- One word was requested, and the header 01 03 02 and the payload byte 18 have come: AW_PAY, PCNT 1. -/
def paying : State :=
  { inState .awPay with
    expcnt := 2, hdr0 := 1, hdr1 := 3, hdr2 := 2, dcrc := crc16 [1, 3, 2, 0x18], pcnt := 1, pbuf := [(0, 0x18)] }

/-- The payload 18 1E has come: AW_CRCLO. -/
def paid : State :=
  { paying with dstate := .awCrcLo, dcrc := 0x4C32, pcnt := 2, pbuf := [(0, 0x18), (1, 0x1E)] }

/-- The low CRC byte 32 has come too: AW_CRCHI. -/
def closing : State := { paid with dstate := .awCrcHi, rclo := 0x32 }

/-- The exchange of W5, complete: DONE. -/
def finished : State := { closing with dstate := .done }

/-- The header 01 83 02 of an exception response has come: AW_XCRCLO. -/
def excepted : State :=
  { inState .awXCrcLo with expcnt := 2, hdr0 := 1, hdr1 := 0x83, hdr2 := 2, dcrc := 0xF1C0 }

/-- The exchange of W6, complete: ERR with DEVICE. -/
def failed : State := { excepted with dstate := .err, rclo := 0xC0, errcls := .device, excode := 2 }

/-- AW_B2 after a header's first two bytes. -/
def awaiting (a f : Byte) : State := { inState .awB2 with expcnt := 2, hdr0 := a, hdr1 := f, dcrc := crc16 [a, f] }

/-! ### Well-formedness (R83): each check refuses -/

theorem test_wf_too_many_operands : (SourceCommand.mk .crcInit [0]).wellFormed = false := by decide
theorem test_wf_too_few_operands : (SourceCommand.mk .crcCheck [1]).wellFormed = false := by decide
theorem test_wf_missing_operand : (SourceCommand.mk .decByte []).wellFormed = false := by decide
theorem test_wf_format_b_byte : (SourceCommand.mk .crcByte [256]).wellFormed = false := by decide
theorem test_wf_format_h_lo : (SourceCommand.mk .crcCheck [256, 0]).wellFormed = false := by decide
theorem test_wf_format_h_hi : (SourceCommand.mk .crcCheck [0, 256]).wellFormed = false := by decide
theorem test_wf_format_r_start : (SourceCommand.mk .encRd [65536, 1]).wellFormed = false := by decide
theorem test_wf_format_r_words : (SourceCommand.mk .xchRd [0, 256]).wellFormed = false := by decide
theorem test_wf_accepts_encodable : (SourceCommand.mk .encRd [0xFFFF, 0xFF]).wellFormed = true := by decide

/-! ### Decoding: words written from R71-R75, R83 and 95_test_vectors.md -/

theorem test_decode_crcInit : decode 0x01000000#32 = some .crcInit := by decide
theorem test_decode_crcByte : decode 0x02000001#32 = some (.crcByte 0x01) := by decide
theorem test_decode_crcRead : decode 0x03000000#32 = some .crcRead := by decide
theorem test_decode_crcCheck : decode 0x040008A4#32 = some (.crcCheck 0xA4 0x08) := by decide
theorem test_decode_encRd : decode 0x10000A01#32 = some (.encRd 0x000A 0x01) := by decide
theorem test_decode_encRd_fields : decode 0x1010007D#32 = some (.encRd 0x1000 0x7D) := by decide
theorem test_decode_xchRd : decode 0x1101000A#32 = some (.xchRd 0x0100 0x0A) := by decide
theorem test_decode_xchRd_illegal_range : decode 0x11200000#32 = some (.xchRd 0x2000 0x00) := by decide
theorem test_decode_decByte : decode 0x20000083#32 = some (.decByte 0x83) := by decide
theorem test_decode_decAbort : decode 0x21000000#32 = some .decAbort := by decide
theorem test_decode_decRdbuf : decode 0x220000FF#32 = some (.decRdbuf 0xFF) := by decide
theorem test_decode_decStatus : decode 0x23000000#32 = some .decStatus := by decide
theorem test_decode_cfgSetaddr : decode 0x30000011#32 = some (.cfgSetaddr 0x11) := by decide
theorem test_decode_cfgGetaddr : decode 0x31000000#32 = some .cfgGetaddr := by decide

theorem test_decode_reserved_bits : [0x01000001#32, 0x02000101#32, 0x04010000#32, 0x03800000#32, 0x20000100#32].map
    decode = [none, none, none, none, none] := by decide
theorem test_decode_unassigned : [0x00000000#32, 0xFF000000#32, 0x05000000#32, 0x12000000#32, 0x24000000#32].map
    decode = [none, none, none, none, none] := by decide

theorem test_encode_words :
    [Instr.crcInit, .crcByte 1, .crcCheck 0xA4 8, .encRd 0x000A 1, .xchRd 0x0100 10, .decByte 0x83, .decRdbuf 0xFF,
      .cfgSetaddr 0x11, .cfgGetaddr].map encode =
    [0x01000000#32, 0x02000001#32, 0x040008A4#32, 0x10000A01#32, 0x1101000A#32, 0x20000083#32, 0x220000FF#32,
      0x30000011#32, 0x31000000#32] := by decide

theorem test_table_word : decodeTableWord 32 0x040008A4 = some (.crcCheck 0xA4 0x08) := by decide
theorem test_table_word_narrow : decodeTableWord 25 0x01000000 = some .crcInit := by decide
theorem test_fetch_word_runs : stepShows (fun t => t.tx == [1, 3, 0, 0x0A, 0, 1, 0xA4, 0x08] && t.rval == 0x8A4#32)
    (State.reset.withFetchWord 32 0x10000A01) = true := by decide +kernel

/-! ### Assembler (R83, R84) -/

theorem test_assemble_decimal_operand :
    assembleLine "XCH.RD 0x0100, 10".toList = some [.xchRd 0x0100 10] := by decide +kernel
theorem test_assemble_case_and_comment :
    assembleLine "crc.check 0xA4, 0x08 ; wire order".toList = some [.crcCheck 0xA4 0x08] := by decide +kernel
theorem test_assemble_out_of_range : assembleLine "CRC.BYTE 256".toList = none := by decide +kernel
theorem test_assemble_unknown : assembleLine "CRC.NOP".toList = none := by decide +kernel
theorem test_assemble_illegal_range_assembles :
    assemble ["ENC.RD 0x1001, 1".toList] = some [0x10100101#32] := by decide +kernel
theorem test_assemble_pseudo : assemble ["READREG 0x000A, 1, 0x83".toList, "CRC.SEQ".toList] =
    some [0x11000A01#32, 0x20000083#32, 0x01000000#32] := by decide +kernel

/-! ### The CRC function (95_test_vectors.md section 2.1) -/

theorem test_crc_empty : crc16 [] = 0xFFFF := by decide
theorem test_crc_check_value :
    crc16 [0x31, 0x32, 0x33, 0x34, 0x35, 0x36, 0x37, 0x38, 0x39] = 0x4B37 := by decide +kernel
theorem test_crc_request_header : crcBytes [0x01, 0x03, 0x00, 0x0A, 0x00, 0x01] = [0xA4, 0x08] := by decide +kernel
theorem test_crc_response : crc16 [0x01, 0x03, 0x02, 0x18, 0x14] = 0x4BB2 := by decide +kernel
theorem test_crc_table_form : crcUpdateTab 0xFFFF 0x01 = 0x807E := by decide +kernel
theorem test_crc_table_spots :
    [0x00, 0x01, 0x80, 0xFE, 0xFF].map (crcTable[·]?) =
      [some 0x0000, some 0xC0C1, some 0xA001, some 0x8081, some 0x4040] := by decide +kernel

/-! ### Commands, one step each (95_test_vectors.md sections 2.2, 2.3 and 2.5) -/

theorem test_crcInit : stepShows (fun t => returns .ok 0xFFFF t && t.crc == 0xFFFF)
    (sending 0x01000000 (withCrc 0x1234)) = true := by decide +kernel
theorem test_crcByte : stepShows (fun t => returns .ok 0x807E t && t.crc == 0x807E)
    (sending 0x02000001 (withCrc 0xFFFF)) = true := by decide +kernel
theorem test_crcByte_zero : stepShows (returns .ok 0x40BF) (sending 0x02000000 (withCrc 0xFFFF)) = true := by
  decide +kernel
theorem test_crcRead : stepShows (fun t => returns .ok 0x08A4 t && t.crc == 0x08A4)
    (sending 0x03000000 (withCrc 0x08A4)) = true := by decide +kernel
theorem test_crcCheck_match : stepShows (fun t => returns .ok 1 t && t.crc == 0x08A4)
    (sending 0x040008A4 (withCrc 0x08A4)) = true := by decide +kernel
theorem test_crcCheck_swapped : stepShows (returns .ok 0) (sending 0x0400A408 (withCrc 0x08A4)) = true := by
  decide +kernel
theorem test_encRd_highest : stepShows (fun t => returns .ok 0x2B81 t &&
    t.tx == [0x01, 0x03, 0x10, 0x00, 0x00, 0x7D, 0x81, 0x2B] && t.dstate == .idle)
    (sending 0x1010007D State.reset) = true := by decide +kernel
theorem test_encRd_arg : stepShows (fun t => returns .arg 0 t && t.tx == [])
    (sending 0x10100101 State.reset) = true := by decide +kernel
theorem test_xchRd_arms : stepShows (fun t => returns .ok 0x8A4 t && t.dstate == .awAddr && t.expcnt == 2 &&
    t.tx == [0x01, 0x03, 0x00, 0x0A, 0x00, 0x01, 0xA4, 0x08]) (sending 0x11000A01 State.reset) = true := by
  decide +kernel
theorem test_xchRd_busy_first : stepShows (fun t => returns .busy 0 t && t.tx == [] && t.dstate == .awPay)
    (sending 0x11200000 paying) = true := by decide +kernel
theorem test_decByte_done : stepShows (fun t => returns .ok 0x00020009 t && t.dstate == .done)
    (sending 0x2000004C closing) = true := by decide +kernel
theorem test_decByte_stray : stepShows (fun t => returns .ok 0x01000000 t && t.stray)
    (sending 0x20000055 State.reset) = true := by decide +kernel
theorem test_decAbort : stepShows (fun t => returns .ok 0 t && t.dstate == .idle && t.pcnt == 0 && t.dcrc == 0xFFFF)
    (sending 0x21000000 paying) = true := by decide +kernel
theorem test_decRdbuf_last : stepShows (returns .ok 0x1E) (sending 0x22000001 finished) = true := by decide +kernel
theorem test_decRdbuf_past : stepShows (returns .arg 0) (sending 0x22000002 finished) = true := by decide +kernel
theorem test_decRdbuf_idle : stepShows (returns .notReady 0) (sending 0x220000FF State.reset) = true := by
  decide +kernel
theorem test_decStatus_exception : stepShows (returns .ok 0x0000026A) (sending 0x23000000 failed) = true := by
  decide +kernel
theorem test_cfgSetaddr_highest : stepShows (fun t => returns .ok 0xF7 t && t.devaddr == 0xF7)
    (sending 0x300000F7 State.reset) = true := by decide +kernel
theorem test_cfgSetaddr_broadcast : stepShows (fun t => returns .arg 0 t && t.devaddr == 1)
    (sending 0x30000000 State.reset) = true := by decide +kernel
theorem test_cfgGetaddr : stepShows (returns .ok 1) (sending 0x31000000 State.reset) = true := by decide +kernel
theorem test_illegal_word : stepShows (fun t => returns .illegal 0 t && t.crc == 0x1234)
    (sending 0x01000001 (withCrc 0x1234)) = true := by decide +kernel

/-! ### The decoder, one byte each (R153-R160, V5, V13, V14, V18, V23) -/

theorem test_rx_addr : stepShows (fun t => t.dcrc == 0x807E && t.dstate == .awFunc && t.hdr0 == 1)
    (sending 0x20000001 (inState .awAddr)) = true := by decide +kernel
theorem test_rx_b2_to_payload : stepShows (fun t => t.dcrc == 0x31A1 && t.dstate == .awPay)
    (sending 0x20000002 (awaiting 1 3)) = true := by decide +kernel
theorem test_rx_b2_address_first : stepShows (returns .ok 0x0000003A) (sending 0x20000002 (awaiting 2 0x83)) = true := by
  decide +kernel
theorem test_rx_b2_bad_function : stepShows (returns .ok 0x0000004A) (sending 0x20000002 (awaiting 1 0x84)) = true := by
  decide +kernel
theorem test_rx_b2_length_zero : stepShows (returns .ok 0x0000002A) (sending 0x20000000 (awaiting 1 3)) = true := by
  decide +kernel
theorem test_rx_b2_length_251 : stepShows (returns .ok 0x0000002A) (sending 0x200000FB (awaiting 1 3)) = true := by
  decide +kernel
theorem test_rx_pay_last : stepShows (fun t => t.pbuf == [(0, 0x18), (1, 0x1E)] && t.pcnt == 2 &&
    t.dstate == .awCrcLo && t.dcrc == 0x4C32) (sending 0x2000001E paying) = true := by decide +kernel
theorem test_rx_crchi_swapped : stepShows (returns .ok 0x0002001A)
    (sending 0x20000032 { closing with rclo := 0x4C }) = true := by decide +kernel
theorem test_rx_crchi_length : stepShows (returns .ok 0x0002005A)
    (sending 0x2000004C { closing with expcnt := 4 }) = true := by decide +kernel
theorem test_rx_xcrchi_device : stepShows (returns .ok 0x0000026A)
    (sending 0x200000F1 { excepted with dstate := .awXCrcHi, rclo := 0xC0 }) = true := by decide +kernel
theorem test_rx_xcrchi_bad_crc : stepShows (returns .ok 0x0000001A)
    (sending 0x200000C0 { excepted with dstate := .awXCrcHi, rclo := 0xF1 }) = true := by decide +kernel

/-! ### The outcome table on the responses of 95_test_vectors.md section 2.4 -/

theorem test_verdict_done :
    responseVerdict 1 1 [0x01, 0x03, 0x02, 0x18, 0x1E, 0x32, 0x4C, 0xAA, 0xBB] = some ⟨6, .done, .noError, 0, 2⟩ := by
  decide +kernel
theorem test_verdict_device : responseVerdict 1 1 [0x01, 0x83, 0xFF, 0x01, 0x70] = some ⟨4, .err, .device, 0xFF, 0⟩ := by
  decide +kernel
theorem test_verdict_exception_crc :
    responseVerdict 1 1 [0x01, 0x83, 0x02, 0xF1, 0xC0] = some ⟨4, .err, .crcMismatch, 0, 0⟩ := by decide +kernel
theorem test_verdict_address :
    responseVerdict 1 1 [0x02, 0x83, 0x02, 0x30, 0xF1] = some ⟨2, .err, .addrMismatch, 0, 0⟩ := by decide +kernel
theorem test_verdict_function :
    responseVerdict 1 1 [0x01, 0x04, 0x02, 0x18, 0x1E, 0x33, 0x38] = some ⟨2, .err, .badFunc, 0, 0⟩ := by decide +kernel
theorem test_verdict_size : responseVerdict 1 1 [0x01, 0x03, 0xFB] = some ⟨2, .err, .frameSize, 0, 0⟩ := by
  decide +kernel
theorem test_verdict_crc_before_length : responseVerdict 1 1 [0x01, 0x03, 0x04, 0x01, 0x02, 0x03, 0x04, 0x00, 0x00] =
    some ⟨8, .err, .crcMismatch, 0, 4⟩ := by decide +kernel
theorem test_verdict_length : responseVerdict 1 1 [0x01, 0x03, 0x01, 0x55, 0x30, 0x77] =
    some ⟨5, .err, .lenMismatch, 0, 1⟩ := by decide +kernel
theorem test_verdict_truncated : responseVerdict 1 1 [0x01, 0x03, 0x02, 0x18] = none := by decide +kernel

/-! ### State and memory -/

theorem test_reset_memory_wf : State.reset.pbuf.wf = true := by decide
theorem test_memory_overwrite : Memory.write [(0, 1), (1, 2)] 1 9 = [(0, 1), (1, 9)] := by decide
theorem test_memory_write_rising : Memory.write [(1, 2)] 0 7 = [(0, 7), (1, 2)] := by decide
theorem test_memory_write_unlists : Memory.write [(0, 1), (1, 2)] 1 Config.pbufUnwritten = [(0, 1)] := by decide
theorem test_memory_wf_refuses_unwritten : Memory.wf [(0, Config.pbufUnwritten)] = false := by decide
theorem test_memory_wf_refuses_order : Memory.wf [(1, 1), (1, 2)] = false := by decide
theorem test_memory_wf_refuses_index : Memory.wf [(250, 1)] = false := by decide

/-! ### Witnesses: encoding -/

theorem witness_DecodeOfEncodeIsTheCommand : (Instr.encRd 0xFFFF 0xFF).wellFormed = true := by decide
theorem witness_EncodeOfDecodeIsTheWord : decode 0x11FFFFFF#32 = some (.xchRd 0xFFFF 0xFF) := by decide
theorem witness_OpcodeRowsNeverOverlap_rows :
    ∃ r ∈ opcodeMap, rowMatches r 0x31000000#32 = true ∧ r.mnemonic = .cfgGetaddr :=
  ⟨⟨.cfgGetaddr, 0x31000000#32, 0xFFFFFFFF#32, fun _ => .cfgGetaddr⟩, by simp [opcodeMap], by decide, rfl⟩
theorem witness_OpcodeRowsNeverOverlap_order : opcodeMap.reverse.Perm opcodeMap := List.reverse_perm _
theorem witness_ReservedAndUnassignedWordsFault_unassigned :
    (0x00000000#32).toNat / 2 ^ 24 = 0 ∧ (0x32000000#32).toNat / 2 ^ 24 = 0x32 := by decide
theorem witness_ReservedAndUnassignedWordsFault_reserved :
    (0x01000001#32).toNat / 2 ^ 24 = 0x01 ∧ (0x01000001#32).toNat % 2 ^ 24 ≠ 0 ∧
    (0x30000100#32).toNat / 2 ^ 24 = 0x30 ∧ (0x30000100#32).toNat / 2 ^ 8 % 2 ^ 16 ≠ 0 ∧
    (0x04010000#32).toNat / 2 ^ 24 = 0x04 ∧ (0x04010000#32).toNat / 2 ^ 16 % 2 ^ 8 ≠ 0 := by decide
theorem witness_ReservedAndUnassignedWordsFault_decodes :
    (0x0400FFFF#32).toNat / 2 ^ 24 = 0x04 ∧ (0x0400FFFF#32).toNat / 2 ^ 16 % 2 ^ 8 = 0 ∧
    (0x020000FF#32).toNat / 2 ^ 24 = 0x02 ∧ (0x020000FF#32).toNat / 2 ^ 8 % 2 ^ 16 = 0 ∧
    (0x31000000#32).toNat / 2 ^ 24 = 0x31 ∧ (0x31000000#32).toNat % 2 ^ 24 = 0 := by decide
theorem witness_AssemblyAcceptsEncodableOperands :
    assembleCommand ⟨.xchRd, [65535, 255]⟩ = some (.xchRd 0xFFFF 0xFF) := by decide

/-! ### Witnesses: the step -/

theorem witness_StepRunsDecodedCommand :
    (sending 0x02000001 State.reset).port = [.command 0x02000001#32] ∧
    decode 0x02000001#32 = some (.crcByte 1) ∧ (Instr.crcByte 1).wellFormed = true := by decide
theorem witness_IdleAndTransmitSteps :
    State.reset.port = [] ∧
    ({ State.reset with port := [.takeTx] } : State).port = [.takeTx] ∧ State.reset.tx = [] ∧
    ({ State.reset with port := [.takeTx], tx := [7] } : State).tx = [7] := by decide
theorem witness_ResetSetsResetValues : ({ failed with port := [.reset, .takeTx] } : State).port = [.reset, .takeTx] := by
  decide
theorem witness_ResetWhileBusyAbandonsLikeAbort :
    ({ paying with port := [.reset] } : State).busy = true ∧
    ({ paying with port := [.reset] } : State).port = [.reset] := by decide

/-! ### Witnesses: the CRC unit -/

theorem witness_TableFormEqualsSerialForm : 0 < 256 ∧ 255 < 256 := by decide
theorem witness_CrcInitSetsSeed : (0x01FFFFFF#32).toNat / 2 ^ 24 = 0x01 ∧ (0x01FFFFFF#32).toNat % 2 ^ 24 ≠ 0 := by
  decide
theorem witness_CrcByteAdvancesCrc :
    (0x02000100#32).toNat / 2 ^ 24 = 0x02 ∧ (0x02000100#32).toNat / 2 ^ 8 % 2 ^ 16 ≠ 0 := by decide
theorem witness_CrcReadReturnsCrc : (0x03800000#32).toNat / 2 ^ 24 = 0x03 ∧ (0x03800000#32).toNat % 2 ^ 24 ≠ 0 := by
  decide
theorem witness_CrcCheckComparesCrc_match :
    (withCrc 0x08A4).crc.toNat = (0x08#8).toNat * 256 + (0xA4#8).toNat := by decide
theorem witness_CrcCheckComparesCrc_mismatch :
    (withCrc 0x08A4).crc.toNat ≠ (0xA4#8).toNat * 256 + (0x08#8).toNat := by decide
theorem witness_CrcCheckComparesCrc_illegal :
    (0x04010000#32).toNat / 2 ^ 24 = 0x04 ∧ (0x04010000#32).toNat / 2 ^ 16 % 2 ^ 8 ≠ 0 := by decide
theorem witness_CrcUnitSharesNothing :
    (Instr.crcByte 1).toSource.mnemonic ∈ [Mnemonic.crcInit, .crcByte, .crcRead, .crcCheck] ∧
    (Instr.decByte 1).toSource.mnemonic ∉ [Mnemonic.crcInit, .crcByte, .crcRead, .crcCheck] ∧
    ∃ t, exec (.decByte 1) (inState .awAddr) = .next t :=
  ⟨by decide, by decide, _, rfl⟩

/-! ### Witnesses: the frame encoder -/

theorem witness_RequestFrameLayout : ∃ h : List Byte, h =
    [0xF7#8, 0x03#8, (0x1000#16).extractLsb' 8 8, (0x1000#16).extractLsb' 0 8, 0x00#8, 0x7D#8] := ⟨_, rfl⟩
theorem witness_RequestFrameProperties :
    1 ≤ (0xF7#8).toNat ∧ (0xF7#8).toNat ≤ 0xF7 ∧ reqArgsOk 0x1000 0x7D = true ∧ reqArgsOk 0 1 = true ∧
    ({ State.reset with devaddr := 0xF7 } : State).devaddr = 0xF7 ∧
    ({ State.reset with devaddr := 0xF7 } : State).busy = false := by decide
theorem witness_EncRdEmitsRequest_legal :
    (0x1000#16).toNat ≤ 0x1000 ∧ 1 ≤ (0x7D#8).toNat ∧ (0x7D#8).toNat ≤ 0x7D ∧ 1 ≤ (0x01#8).toNat := by decide
theorem witness_EncRdEmitsRequest_illegal :
    0x1000 < (0x1001#16).toNat ∧ (0x00#8).toNat = 0 ∧ 0x7D < (0x7E#8).toNat := by decide
theorem witness_XchRdOpensExchange_quiescent :
    State.reset.busy = false ∧ finished.busy = false ∧ failed.busy = false ∧ (0x1000#16).toNat ≤ 0x1000 ∧
    1 ≤ (0x01#8).toNat ∧ (0x7D#8).toNat ≤ 0x7D := by decide +kernel
theorem witness_XchRdOpensExchange_busy :
    [DState.awAddr, .awFunc, .awB2, .awPay, .awCrcLo, .awCrcHi, .awXCrcLo, .awXCrcHi].all
      (fun d => (inState d).busy) = true := by decide
theorem witness_XchRdOpensExchange_illegal :
    State.reset.busy = false ∧ 0x1000 < (0x1001#16).toNat ∧ (0x00#8).toNat = 0 ∧ 0x7D < (0x7E#8).toNat := by decide

/-! ### Witnesses: the frame decoder -/

theorem witness_DecByteReturnsStatusAfterStep : (∃ t, exec (.decByte 0x55) State.reset = .next t) ∧
    (0x20000100#32).toNat / 2 ^ 24 = 0x20 ∧ (0x20000100#32).toNat / 2 ^ 8 % 2 ^ 16 ≠ 0 :=
  ⟨⟨_, rfl⟩, by decide, by decide⟩
theorem witness_DecByteLatchesHeader : (inState .awAddr).dstate = .awAddr ∧ (inState .awFunc).dstate = .awFunc := by
  decide
theorem witness_DecByteChecksHeader_branches :
    (awaiting 2 3).dstate = .awB2 ∧ (awaiting 2 3).hdr0 ≠ (awaiting 2 3).devaddr ∧
    (awaiting 1 0x83).hdr0 = (awaiting 1 0x83).devaddr ∧ (awaiting 1 0x83).hdr1 = 0x83#8 ∧
    (awaiting 1 0x84).hdr1 ≠ 0x83#8 ∧ (awaiting 1 0x84).hdr1 ≠ 0x03#8 ∧ (awaiting 1 3).hdr1 = 0x03#8 ∧
    (0x00#8).toNat < 0x01 ∧ 0xFA < (0xFB#8).toNat ∧
    ¬((0x01#8).toNat < 0x01 ∨ 0xFA < (0x01#8).toNat) ∧ ¬((0xFA#8).toNat < 0x01 ∨ 0xFA < (0xFA#8).toNat) := by
  decide +kernel
/-- The payload's last byte is due at the last index of PBUF (the bytes before it are left out). -/
def lastByte : State := { paying with hdr2 := 250, pcnt := 249 }

theorem witness_DecByteStoresPayload_bounds :
    paying.dstate = .awPay ∧ paying.pcnt.toNat ≤ 249 ∧ lastByte.dstate = .awPay ∧ lastByte.pcnt.toNat = 249 ∧
    lastByte.pcnt.toNat + 1 = lastByte.hdr2.toNat := by decide +kernel
theorem paying_inv : Inv paying := by constructor <;> decide +kernel
theorem finished_inv : Inv finished := by constructor <;> decide +kernel
theorem failed_inv : Inv failed := by constructor <;> decide +kernel
theorem witness_DecByteStoresPayload_invariant : Inv paying ∧ paying.dstate = .awPay :=
  ⟨paying_inv, by decide +kernel⟩
theorem witness_DecByteChecksCrcThenLength :
    paid.dstate = .awCrcLo ∧ closing.dstate = .awCrcHi ∧
    (0x4C#8).toNat * 256 + closing.rclo.toNat = closing.dcrc.toNat ∧ closing.hdr2 = closing.expcnt ∧
    (0x4D#8).toNat * 256 + closing.rclo.toNat ≠ closing.dcrc.toNat ∧
    ({ closing with expcnt := 4 } : State).dstate = .awCrcHi ∧ ({ closing with expcnt := 4 } : State).hdr2 ≠ 4 := by
  decide +kernel
theorem witness_DecByteEndsExceptionResponse :
    excepted.dstate = .awXCrcLo ∧ ({ excepted with dstate := .awXCrcHi, rclo := 0xC0 } : State).dstate = .awXCrcHi ∧
    (0xF1#8).toNat * 256 + (0xC0#8).toNat = excepted.dcrc.toNat ∧
    (0xC0#8).toNat * 256 + (0xC0#8).toNat ≠ excepted.dcrc.toNat := by decide +kernel
theorem witness_StrayBytesChangeOnlyStray :
    State.reset.dstate = .idle ∧ finished.dstate = .done ∧ failed.dstate = .err ∧ [0xAA#8, 0xBB#8] ≠ [] := by
  decide +kernel
theorem witness_DecAbortClearsDecoder :
    (0x21000001#32).toNat / 2 ^ 24 = 0x21 ∧ (0x21000001#32).toNat % 2 ^ 24 ≠ 0 := by decide

/-- The last byte of the largest payload, DONE (V30; the bytes before it are left out). -/
def fullest : State := { finished with expcnt := 250, hdr2 := 250, pcnt := 250, pbuf := [(249, 0xF9)] }

theorem witness_DecRdbufReturnsPayloadByte_read :
    fullest.dstate = .done ∧ (249#8).toNat < fullest.pcnt.toNat ∧ (249#8).toNat ≤ 249 ∧
    fullest.pbuf.read (249#8).toNat = 0xF9 ∧ finished.pbuf.read 0 = 0x18 := by decide +kernel
theorem witness_DecRdbufReturnsPayloadByte_faults :
    State.reset.dstate ≠ .done ∧ failed.dstate ≠ .done ∧ finished.dstate = .done ∧
    finished.pcnt.toNat ≤ (2#8).toNat ∧ fullest.pcnt.toNat ≤ (250#8).toNat := by decide +kernel
theorem witness_DecRdbufReturnsPayloadByte_invariant :
    Inv finished ∧ finished.dstate = .done ∧ (1#8).toNat < finished.pcnt.toNat ∧ 250 ≤ (250#8).toNat :=
  ⟨finished_inv, by decide +kernel, by decide +kernel, by decide⟩
theorem witness_DecRdbufReturnsPayloadByte_illegal :
    (0x22000100#32).toNat / 2 ^ 24 = 0x22 ∧ (0x22000100#32).toNat / 2 ^ 8 % 2 ^ 16 ≠ 0 := by decide
theorem witness_PayloadBufferStops :
    ({ inState .awPay with pcnt := 250 } : State).dstate = .awPay ∧
    250 ≤ ({ inState .awPay with pcnt := 250 } : State).pcnt.toNat ∧
    ({ inState .done with pcnt := 251 } : State).dstate = .done ∧
    (250#8).toNat < ({ inState .done with pcnt := 251 } : State).pcnt.toNat := by decide
theorem witness_UnwrittenPayloadBytesAreUnobservable :
    SamePayload (sending 0x2000001E paying) { sending 0x2000001E paying with pbuf := [(0, 0x18), (1, 0x77), (9, 5)] } ∧
    ∃ t, step (sending 0x2000001E paying) = .next t ∧ t.dstate = .awCrcLo :=
  ⟨⟨rfl, fun _ => by decide +kernel⟩, _, rfl, by decide +kernel⟩
/-- A state that R41 excludes: AW_PAY with no room left. -/
def overfull : State := sending 0x20000000 { inState .awPay with pcnt := 250 }

theorem witness_UnwrittenPayloadBytesAreUnobservable_stop :
    SamePayload overfull { overfull with pbuf := [(250, 1)] } ∧ step overfull = .fault (.pbufNoSuchByte 250) :=
  ⟨⟨rfl, fun _ => by decide +kernel⟩, rfl⟩
theorem witness_DecStatusReturnsStatus : paying.busy = true ∧
    (0x23000001#32).toNat / 2 ^ 24 = 0x23 ∧ (0x23000001#32).toNat % 2 ^ 24 ≠ 0 := by decide +kernel
theorem witness_ExceptionCodeNames : (0x00#8).toNat = 0 ∧ 0x06 ≤ (0x06#8).toNat ∧ 0x06 ≤ (0xFF#8).toNat := by decide

/-! ### Witnesses: configuration, faults and frames -/

theorem witness_CfgSetaddrSetsLegalAddress_legal :
    State.reset.busy = false ∧ 0x01 ≤ (0x01#8).toNat ∧ (0xF7#8).toNat ≤ 0xF7 := by decide
theorem witness_CfgSetaddrSetsLegalAddress_faults :
    (inState .awFunc).busy = true ∧ finished.busy = false ∧ (0x00#8).toNat < 0x01 ∧ 0xF7 < (0xF8#8).toNat ∧
    (0x30000100#32).toNat / 2 ^ 24 = 0x30 ∧ (0x30000100#32).toNat / 2 ^ 8 % 2 ^ 16 ≠ 0 := by decide +kernel
theorem witness_CfgGetaddrReturnsAddress :
    (0x31000001#32).toNat / 2 ^ 24 = 0x31 ∧ (0x31000001#32).toNat % 2 ^ 24 ≠ 0 := by decide
theorem witness_CommandFaultsHaveNoEffect :
    ∃ t, step (sending 0x10000A7E State.reset) = .next t ∧ t.rstat ≠ .ok := ⟨_, rfl, by decide +kernel⟩
theorem witness_CommandFaultCausesInOrder_illegal :
    ∃ t, step (sending 0x00000000 State.reset) = .next t ∧ t.rstat = .illegal := ⟨_, rfl, by decide +kernel⟩
theorem witness_CommandFaultCausesInOrder_state :
    (∃ t, exec (.xchRd 0x2000 0) (inState .awAddr) = .next t ∧ t.rstat = .busy) ∧
    (∃ t, exec (.decRdbuf 255) State.reset = .next t ∧ t.rstat = .notReady) :=
  ⟨⟨_, rfl, by decide⟩, ⟨_, rfl, by decide⟩⟩
theorem witness_CommandFaultCausesInOrder_arg :
    (∃ t, exec (.encRd 0x1001 1) State.reset = .next t ∧ t.rstat = .arg) ∧
    (∃ t, exec (.xchRd 0 0x7E) State.reset = .next t ∧ t.rstat = .arg) ∧
    (∃ t, exec (.decRdbuf 0) (inState .done) = .next t ∧ t.rstat = .arg) ∧
    (∃ t, exec (.cfgSetaddr 0xF8) State.reset = .next t ∧ t.rstat = .arg) :=
  ⟨⟨_, rfl, by decide⟩, ⟨_, rfl, by decide⟩, ⟨_, rfl, by decide⟩, ⟨_, rfl, by decide⟩⟩
theorem witness_CommandsWriteOnlyTheirElements :
    ∃ t, exec .crcInit State.reset = .next t ∧ (Instr.crcInit).toSource.mnemonic ∉ [Mnemonic.decByte] :=
  ⟨_, rfl, by decide⟩
theorem witness_DecoderMovesAlongItsTransitions :
    (∃ t, exec (.decByte 1) (inState .awAddr) = .next t ∧ t.dstate ≠ (inState .awAddr).dstate) ∧
    (∃ t, exec .decAbort (inState .err) = .next t ∧ t.dstate ≠ (inState .err).dstate) :=
  ⟨⟨_, rfl, by decide +kernel⟩, ⟨_, rfl, by decide⟩⟩
theorem witness_TxChangesByHeadOrWholeFrame :
    ∃ t, step (sending 0x10000A01 State.reset) = .next t ∧ t.tx ≠ [] := ⟨_, rfl, by decide +kernel⟩
theorem witness_ReadingCommandsAreIdempotent :
    (Instr.crcCheck 0 0).toSource.mnemonic ∈ [Mnemonic.crcRead, .crcCheck, .decRdbuf, .decStatus, .cfgGetaddr] ∧
    ∃ t, exec (.crcCheck 0 0) State.reset = .next t := ⟨by decide, _, rfl⟩
theorem witness_FrameErrorsComeFromDecByte :
    (awaiting 2 3).dstate ≠ .err ∧ ∃ t, exec (.decByte 2) (awaiting 2 3) = .next t ∧ t.dstate = .err :=
  ⟨by decide +kernel, _, rfl, by decide +kernel⟩
theorem witness_ErrorRecordIsSticky_kept :
    (sending 0x22000000 failed).dstate = .err ∧ ∃ t, step (sending 0x22000000 failed) = .next t ∧ t.dstate = .err :=
  ⟨by decide +kernel, _, rfl, by decide +kernel⟩
theorem witness_ErrorRecordIsSticky_left :
    (∃ t, step (sending 0x11000A01 failed) = .next t ∧ t.dstate = .awAddr) ∧
    (∃ t, step (sending 0x21000000 failed) = .next t ∧ t.dstate = .idle) :=
  ⟨⟨_, rfl, by decide +kernel⟩, ⟨_, rfl, by decide +kernel⟩⟩

/-! ### Witnesses: invariants and whole responses -/

theorem witness_StepKeepsInvariants :
    Inv (sending 0x2000001E paying) ∧ ∃ t, step (sending 0x2000001E paying) = .next t ∧ t.dstate = .awCrcLo :=
  ⟨by constructor <;> decide +kernel, _, rfl, by decide +kernel⟩
theorem witness_StepKeepsRunningCrc :
    CrcTracks (sending 0x2000001E paying) ∧
      ∃ t, step (sending 0x2000001E paying) = .next t ∧ t.dstate = .awCrcLo := by
  refine ⟨fun bs h => ?_, _, rfl, by decide +kernel⟩
  have h : coveredBytes (sending 0x2000001E paying) = some bs := h
  rw [show coveredBytes (sending 0x2000001E paying) = some [1, 3, 2, 0x18] by decide +kernel] at h
  cases h
  decide +kernel
theorem witness_StepKeepsHeaderChecks :
    HeaderChecked (sending 0x200000C0 excepted) ∧ ∃ t, step (sending 0x200000C0 excepted) = .next t :=
  ⟨by constructor <;> decide +kernel, _, rfl⟩
theorem witness_InvariantStatesNeverStop : Inv (sending 0x22000001 finished) := by constructor <;> decide +kernel
theorem witness_ResponsesEndAsTabulated :
    finished.busy = false ∧ reqArgsOk 0x000A 1 = true ∧
    responseVerdict finished.devaddr 1 [0x01, 0x03, 0x02, 0x18, 0x1E, 0x32, 0x4C, 0xAA] =
      some ⟨6, .done, .noError, 0, 2⟩ := by decide +kernel
theorem witness_ShortResponsesLeaveDecoderBusy :
    State.reset.busy = false ∧ reqArgsOk 0x1000 0x7D = true ∧
    responseVerdict State.reset.devaddr 0x7D [0x01, 0x83, 0x02, 0xC0] = none := by decide +kernel

end Sys2Proof.Tests
end

section
/-! SUPPORT. What a step answers when the host's next act is a command word, said once for each function on the way
from `step` to `exec`. -/

namespace Sys2Proof.Machine

/-- The host's next act is taken from the head of the port, and the rest of the state waits behind it (R59). -/
theorem nextEvent_of_port_eq_cons {s : State} {e : HostEvent} {rest : List HostEvent} (h : s.port = e :: rest) :
    nextEvent s = some (e, { s with port := rest }) := by
  simp only [nextEvent, h]

/-- A step at a command word runs the word on the state without it (R8, R59). -/
theorem step_of_port_eq_command {s : State} {w : Word} {rest : List HostEvent} (h : s.port = .command w :: rest) :
    step s = runWord w { s with port := rest } := by
  simp only [step, nextEvent_of_port_eq_cons h]

/-- A word that decodes runs the command it decodes to (R76). -/
theorem runWord_of_decode_eq_some {w : Word} {i : Instr} (h : decode w = some i) (s : State) :
    runWord w s = exec i s := by
  simp only [runWord, h]

/-- Settles O7: the head of the port selects the word, and decoding the word selects the command. Well-formedness is not
needed, since every `Instr` is well formed. -/
theorem stepRunsDecodedCommand : Obligations.StepRunsDecodedCommand := by
  intro s w rest i hport hdecode _
  calc step s = runWord w { s with port := rest } := step_of_port_eq_command hport
    _ = exec i { s with port := rest } := runWord_of_decode_eq_some hdecode _

end Sys2Proof.Machine
end

section
/-! SUPPORT. What a step can do to the frame decoder, DEVADDR and PBUF, said once for all commands and host events, so
that an invariant of these elements is proved against six moves and not against every command. -/

namespace Sys2Proof.Machine

/-- The two states agree in every element of the frame decoder, in PBUF and in DEVADDR: only the CRC unit, TX, the
result interface and the port may differ. -/
def SameDecoder (s t : State) : Prop :=
  ∃ c x r v p, t = { s with crc := c, tx := x, rstat := r, rval := v, port := p }

/-- What a step can do to the frame decoder, DEVADDR and PBUF. -/
inductive DecoderMove : State → State → Prop
  | keep (s : State) : DecoderMove s s
  | reset (s : State) : DecoderMove s State.reset
  | arm (s : State) (start : Half) (words : Byte) : s.busy = false → reqArgsOk start words = true →
      DecoderMove s (s.arm words)
  | byte (s t : State) (b : Byte) : receive b s = .ok t → DecoderMove s t
  | abort (s : State) : DecoderMove s s.clearDecoder
  | setaddr (s : State) (a : Byte) : s.busy = false → addrOk a = true → DecoderMove s { s with devaddr := a }

/-- A command that answers makes one move of the decoder. -/
theorem exec_decoderMove {i : Instr} {s t : State} (h : exec i s = .next t) :
    ∃ u, DecoderMove s u ∧ SameDecoder u t := by
  cases i with
  | crcInit => obtain rfl := execCrcInit_cases h; exact ⟨s, .keep s, _, _, _, _, _, rfl⟩
  | crcByte b => obtain rfl := execCrcByte_cases h; exact ⟨s, .keep s, _, _, _, _, _, rfl⟩
  | crcRead => obtain rfl := execCrcRead_cases h; exact ⟨s, .keep s, _, _, _, _, _, rfl⟩
  | crcCheck lo hi => obtain rfl := execCrcCheck_cases h; exact ⟨s, .keep s, _, _, _, _, _, rfl⟩
  | encRd start words =>
    rcases execEncRd_cases h with ⟨-, rfl⟩ | ⟨-, rfl⟩ <;> exact ⟨s, .keep s, _, _, _, _, _, rfl⟩
  | xchRd start words =>
    rcases execXchRd_cases h with ⟨-, rfl⟩ | ⟨hquiet, hargs, rfl⟩ | ⟨-, -, rfl⟩
    · exact ⟨s, .keep s, _, _, _, _, _, rfl⟩
    · exact ⟨s.arm words, .arm s start words hquiet hargs, _, _, _, _, _, rfl⟩
    · exact ⟨s, .keep s, _, _, _, _, _, rfl⟩
  | decByte b =>
    obtain ⟨u, hu, rfl⟩ := execDecByte_cases h
    exact ⟨u, .byte s u b hu, _, _, _, _, _, rfl⟩
  | decAbort => obtain rfl := execDecAbort_cases h; exact ⟨s.clearDecoder, .abort s, _, _, _, _, _, rfl⟩
  | decRdbuf k =>
    rcases execDecRdbuf_cases h with ⟨-, rfl⟩ | ⟨-, -, rfl⟩ | ⟨-, -, -, rfl⟩ <;>
      exact ⟨s, .keep s, _, _, _, _, _, rfl⟩
  | decStatus => obtain rfl := execDecStatus_cases h; exact ⟨s, .keep s, _, _, _, _, _, rfl⟩
  | cfgSetaddr a =>
    rcases execCfgSetaddr_cases h with ⟨-, rfl⟩ | ⟨hquiet, haddr, rfl⟩ | ⟨-, -, rfl⟩
    · exact ⟨s, .keep s, _, _, _, _, _, rfl⟩
    · exact ⟨{ s with devaddr := a }, .setaddr s a hquiet haddr, _, _, _, _, _, rfl⟩
    · exact ⟨s, .keep s, _, _, _, _, _, rfl⟩
  | cfgGetaddr => obtain rfl := execCfgGetaddr_cases h; exact ⟨s, .keep s, _, _, _, _, _, rfl⟩

/-- The induction step of every invariant of the decoder: a property that sees only the decoder, PBUF and DEVADDR, and
that every move of the decoder keeps, is kept by every step. -/
theorem step_keeps_of_decoderMove {P : State → Prop} (hsame : ∀ s t, SameDecoder s t → P s → P t)
    (hmove : ∀ s t, DecoderMove s t → P s → P t) {s t : State} (h : step s = .next t) (hs : P s) : P t := by
  rcases step_cases h with ⟨-, rfl⟩ | ⟨rest, -, rfl⟩ | ⟨rest, -, rfl⟩ | ⟨w, rest, -, -, rfl⟩ |
    ⟨w, rest, i, -, -, hexec⟩
  · exact hs
  · exact hsame s _ ⟨_, _, _, _, _, rfl⟩ hs
  · exact hsame State.reset _ ⟨_, _, _, _, _, rfl⟩ (hmove s _ (.reset s) hs)
  · exact hsame s _ ⟨_, _, _, _, _, rfl⟩ hs
  · obtain ⟨u, hu, hut⟩ := exec_decoderMove hexec
    have hrest : P { s with port := rest } := hsame s _ ⟨_, _, _, _, _, rfl⟩ hs
    exact hsame u t hut (hmove _ u hu hrest)

end Sys2Proof.Machine
end

section
/-! SUPPORT. The invariants of R41 along the moves of the decoder. What they say of every open exchange is one
predicate, and each state that a received byte can lead to adds its own count. -/

namespace Sys2Proof.Machine

/-- What R41 says of every open exchange, whichever byte it waits for. -/
structure OpenExchange (s : State) : Prop where
  addrLegal : 1 ≤ s.devaddr.toNat ∧ s.devaddr.toNat ≤ 0xF7
  noClass : s.errcls = .noError
  noCode : s.excode = 0#8
  countRequested : s.expcnt.toNat % 2 = 0 ∧ 2 ≤ s.expcnt.toNat ∧ s.expcnt.toNat ≤ 250
  noStray : s.stray = false
  bufferForm : s.pbuf.wf = true

theorem busy_eq_false_iff {s : State} :
    s.busy = false ↔ s.dstate = .idle ∨ s.dstate = .done ∨ s.dstate = .err := by
  unfold State.busy
  cases s.dstate <;> simp [dstateBusy]

/-- An open exchange has no error recorded and no stray byte seen. -/
theorem Inv.openExchange {s : State} (h : Inv s) (hbusy : s.busy = true) : OpenExchange s := by
  have hne : s.dstate ≠ .err := fun he => by simp [State.busy, dstateBusy, he] at hbusy
  have hclass : s.errcls = .noError := by_contra fun hc => hne (h.errIffClass.mp hc)
  refine ⟨h.addrLegal, hclass, ?_, h.countRequested (.inl hbusy), ?_, h.bufferForm⟩
  · by_contra hcode
    have hdev := h.codeOnlyDevice hcode
    rw [hclass] at hdev
    cases hdev
  · rw [← Bool.not_eq_true]
    intro hstray
    rw [busy_eq_false_iff.mpr (h.strayQuiet hstray)] at hbusy
    cases hbusy

namespace OpenExchange

variable {s : State}

/-- Waiting for the header or for the CRC of an exception response, an exchange has no count to keep. -/
theorem inv_of_header (h : OpenExchange s)
    (hd : s.dstate = .awAddr ∨ s.dstate = .awFunc ∨ s.dstate = .awB2 ∨ s.dstate = .awXCrcLo ∨ s.dstate = .awXCrcHi) :
    Inv s := by
  obtain ⟨haddr, hclass, hcode, hcount, hstray, hbuf⟩ := h
  rcases hd with hd | hd | hd | hd | hd <;> constructor <;> simp_all

theorem inv_of_payload (h : OpenExchange s) (hd : s.dstate = .awPay) (hlen : 1 ≤ s.hdr2.toNat ∧ s.hdr2.toNat ≤ 250)
    (hpcnt : s.pcnt.toNat < s.hdr2.toNat) : Inv s := by
  obtain ⟨haddr, hclass, hcode, hcount, hstray, hbuf⟩ := h
  constructor <;> simp_all

theorem inv_of_crc (h : OpenExchange s) (hd : s.dstate = .awCrcLo ∨ s.dstate = .awCrcHi)
    (hlen : 1 ≤ s.hdr2.toNat ∧ s.hdr2.toNat ≤ 250) (hpcnt : s.pcnt = s.hdr2) : Inv s := by
  obtain ⟨haddr, hclass, hcode, hcount, hstray, hbuf⟩ := h
  rcases hd with hd | hd <;> constructor <;> simp_all

/-- The exchange ends in DONE: the whole payload came, as long as requested. -/
theorem inv_done (h : OpenExchange s) (hlen : 1 ≤ s.hdr2.toNat ∧ s.hdr2.toNat ≤ 250) (hpcnt : s.pcnt = s.hdr2)
    (hexp : s.hdr2 = s.expcnt) : Inv { s with dstate := .done } := by
  obtain ⟨haddr, hclass, hcode, hcount, hstray, hbuf⟩ := h
  constructor <;> simp_all

/-- The exchange ends in ERR with a class, which DEVICE alone lets keep a code. -/
theorem inv_frameError (h : OpenExchange s) {cls : ErrCls} (hcls : cls ≠ .noError) (x : Byte)
    (hx : x ≠ 0#8 → cls = .device) : Inv ({ s with excode := x }.frameError cls) := by
  obtain ⟨haddr, hclass, hcode, hcount, hstray, hbuf⟩ := h
  constructor <;> simp_all [State.busy, dstateBusy]

end OpenExchange

/-- The header checks keep the invariants: the length check is what bounds the payload (R155). -/
theorem OpenExchange.inv_checkHeader {s : State} (h : OpenExchange s) : Inv (checkHeader s) := by
  have herror : ∀ cls : ErrCls, cls ≠ .noError → Inv (s.frameError cls) := fun cls hcls =>
    h.inv_frameError hcls s.excode fun hx => absurd h.noCode hx
  rcases checkHeader_cases s with ⟨-, heq⟩ | ⟨-, -, heq⟩ | ⟨-, -, -, heq⟩ | ⟨-, -, hlen, heq⟩ | ⟨-, -, -, heq⟩ <;>
    rw [heq]
  · exact herror _ (by decide)
  · exact inv_of_header (s := { s with dstate := .awXCrcLo }) { h with } (by simp)
  · exact herror _ (by decide)
  · have hlen := byteLenOk_eq_true.mp hlen
    exact inv_of_payload (s := { s with pcnt := 0#8, dstate := .awPay }) { h with } rfl hlen hlen.1
  · exact herror _ (by decide)

/-- PCNT counts without wrapping while it is an index of PBUF. -/
theorem toNat_add_one_of_lt_pbufSize {n : Byte} (h : n.toNat < Config.pbufSize) : (n + 1#8).toNat = n.toNat + 1 := by
  have hsize : Config.pbufSize = 250 := rfl
  rw [BitVec.toNat_add, BitVec.toNat_ofNat]
  omega

/-- A stored payload byte keeps the invariants: PCNT stays below the length until the last byte (R156). -/
theorem Inv.of_payloadReceived {s : State} (h : Inv s) (hd : s.dstate = .awPay) (b : Byte)
    (hin : s.pcnt.toNat < Config.pbufSize) : Inv (payloadReceived b s) := by
  have hopen : OpenExchange (payloadReceived b s) :=
    { h.openExchange (by simp [State.busy, dstateBusy, hd]) with
      bufferForm := Memory.wf_write _ _ _ hin h.bufferForm }
  obtain ⟨hlo, hhi, hlt⟩ := h.inPayload hd
  by_cases hlast : s.pcnt + 1#8 = s.hdr2
  · exact hopen.inv_of_crc (.inl (if_pos hlast)) ⟨hlo, hhi⟩ hlast
  · have hsucc : (s.pcnt + 1#8).toNat = s.pcnt.toNat + 1 := by
      rw [BitVec.toNat_add, BitVec.toNat_ofNat]; omega
    have hne : (s.pcnt + 1#8).toNat ≠ s.hdr2.toNat := fun heq => hlast (BitVec.eq_of_toNat_eq heq)
    refine hopen.inv_of_payload ((if_neg hlast).trans hd) ⟨hlo, hhi⟩ ?_
    change (s.pcnt + 1#8).toNat < s.hdr2.toNat
    omega

/-- A stray byte keeps the invariants: it is seen in a quiescent state only (R161). -/
theorem Inv.of_rxStray {s : State} (h : Inv s) (hquiet : s.busy = false) (b : Byte) : Inv (rxStray b s) :=
  { h with strayQuiet := fun _ => busy_eq_false_iff.mp hquiet }

/-- A received byte keeps the invariants. -/
theorem Inv.of_receive {b : Byte} {s t : State} (h : Inv s) (hrec : receive b s = .ok t) : Inv t := by
  have hopen : ∀ d, s.dstate = d → dstateBusy d = true → OpenExchange s := fun d hd hbusy =>
    h.openExchange (by rwa [State.busy, hd])
  rcases receive_cases hrec with ⟨hquiet, rfl⟩ | ⟨hd, rfl⟩ | ⟨hd, rfl⟩ | ⟨hd, rfl⟩ | ⟨hd, hin, rfl⟩ | ⟨hd, rfl⟩ |
    ⟨hd, rfl⟩ | ⟨hd, rfl⟩ | ⟨hd, rfl⟩
  · exact h.of_rxStray hquiet b
  · exact OpenExchange.inv_of_header (s := rxAddr b s) { hopen _ hd rfl with } (by simp [rxAddr])
  · exact OpenExchange.inv_of_header (s := rxFunc b s) { hopen _ hd rfl with } (by simp [rxFunc])
  · exact OpenExchange.inv_checkHeader { hopen _ hd rfl with }
  · exact h.of_payloadReceived hd b hin
  · obtain ⟨hpcnt, hlen⟩ := h.afterPayload (.inl hd)
    exact OpenExchange.inv_of_crc (s := rxCrcLo b s) { hopen _ hd rfl with } (.inr rfl) hlen hpcnt
  · obtain ⟨hpcnt, hlen⟩ := h.afterPayload (.inr (.inl hd))
    have hopen := hopen _ hd rfl
    have herror : ∀ cls : ErrCls, cls ≠ .noError → Inv (s.frameError cls) := fun cls hcls =>
      hopen.inv_frameError hcls s.excode fun hx => absurd hopen.noCode hx
    rcases rxCrcHi_cases b s with ⟨-, heq⟩ | ⟨-, -, heq⟩ | ⟨-, hexp, heq⟩ <;> rw [heq]
    · exact herror _ (by decide)
    · exact herror _ (by decide)
    · exact hopen.inv_done hlen hpcnt hexp
  · exact OpenExchange.inv_of_header (s := rxXCrcLo b s) { hopen _ hd rfl with } (by simp [rxXCrcLo])
  · have hopen := hopen _ hd rfl
    rcases rxXCrcHi_cases b s with ⟨-, heq⟩ | ⟨-, heq⟩ <;> rw [heq]
    · exact hopen.inv_frameError (by decide) s.excode fun hx => absurd hopen.noCode hx
    · exact hopen.inv_frameError (by decide) s.hdr2 fun _ => rfl

/-- The reset state is idle, with every record clear. -/
theorem inv_reset : Inv State.reset := by
  constructor <;> decide

/-- Arming opens an exchange whose byte count is even and in 2..250, twice a legal word count (R134). -/
theorem Inv.of_arm {s : State} (h : Inv s) {start : Half} {words : Byte} (hargs : reqArgsOk start words = true) :
    Inv (s.arm words) := by
  obtain ⟨-, hlo, hhi⟩ := reqArgsOk_eq_true.mp hargs
  refine OpenExchange.inv_of_header ⟨h.addrLegal, rfl, rfl, ?_, rfl, h.bufferForm⟩ (.inl rfl)
  rw [State.arm_expcnt, BitVec.toNat_mul, BitVec.toNat_ofNat]
  omega

/-- Clearing the decoder leaves IDLE with nothing recorded (R164). -/
theorem Inv.of_clearDecoder {s : State} (h : Inv s) : Inv s.clearDecoder :=
  { inv_reset with addrLegal := h.addrLegal, bufferForm := h.bufferForm }

/-- Every move of the decoder keeps the invariants. -/
theorem Inv.of_decoderMove {s t : State} (h : DecoderMove s t) (hs : Inv s) : Inv t := by
  cases h with
  | keep => exact hs
  | reset => exact inv_reset
  | arm start words _ hargs => exact hs.of_arm hargs
  | byte _ b hrec => exact hs.of_receive hrec
  | abort => exact hs.of_clearDecoder
  | setaddr a _ haddr => exact { hs with addrLegal := addrOk_eq_true.mp haddr }

/-- The invariants see only the decoder, PBUF and DEVADDR. -/
theorem Inv.of_sameDecoder {s t : State} (h : SameDecoder s t) (hs : Inv s) : Inv t := by
  obtain ⟨c, x, r, v, p, rfl⟩ := h
  exact { hs with }

/-- Settles O50: the invariants are kept along every move of the decoder. -/
theorem stepKeepsInvariants : Obligations.StepKeepsInvariants := fun _ _ hs h =>
  step_keeps_of_decoderMove (fun _ _ => Inv.of_sameDecoder) (fun _ _ => Inv.of_decoderMove) h hs

end Sys2Proof.Machine
end

section
/-! SUPPORT. The running CRC of R30 along the moves of the decoder: every received byte that DCRC advances by is
appended to the bytes it covers. -/

namespace Sys2Proof.Machine

/-- Where the covered bytes are known, the running CRC is their CRC. -/
theorem crcTracks_of_coveredBytes {s : State} {bs : List Byte} (hbs : coveredBytes s = some bs)
    (hcrc : s.dcrc = crc16 bs) : CrcTracks s := by
  intro cs hcs
  rw [hbs] at hcs
  cases hcs
  exact hcrc

/-- Where DCRC covers nothing, there is nothing to track. -/
theorem crcTracks_of_coveredBytes_eq_none {s : State} (h : coveredBytes s = none) : CrcTracks s := by
  intro bs hbs
  rw [h] at hbs
  cases hbs

/-- DCRC advances by the byte that the covered bytes grow by. -/
theorem CrcTracks.append {s t : State} {bs : List Byte} {b : Byte} (h : CrcTracks s) (hs : coveredBytes s = some bs)
    (ht : coveredBytes t = some (bs ++ [b])) (hcrc : t.dcrc = crcUpdate s.dcrc b) : CrcTracks t :=
  crcTracks_of_coveredBytes ht (by rw [hcrc, h bs hs, crc16_concat])

/-- A change that keeps the covered bytes and DCRC keeps the running CRC. -/
theorem CrcTracks.congr {s t : State} (h : CrcTracks s) (hbs : coveredBytes t = coveredBytes s)
    (hcrc : t.dcrc = s.dcrc) : CrcTracks t := by
  intro bs ht
  rw [hcrc]
  exact h bs (hbs ▸ ht)

@[simp] theorem payloadBytes_zero (m : Memory) : payloadBytes m 0 = [] := rfl

/-- Writing at the count appends the byte to the payload. -/
theorem payloadBytes_write_succ (m : Memory) (n : Nat) (b : Byte) :
    payloadBytes (m.write n b) (n + 1) = payloadBytes m n ++ [b] := by
  have hprefix : (List.range n).map (m.write n b).read = (List.range n).map m.read :=
    List.map_congr_left fun i hi => m.read_write_other b (List.mem_range.mp hi).ne
  simp [payloadBytes, List.range_succ, hprefix]

/-- A stored payload byte joins the covered bytes (R156). -/
theorem coveredBytes_payloadReceived {b : Byte} {s : State} (hd : s.dstate = .awPay)
    (hin : s.pcnt.toNat < Config.pbufSize) : coveredBytes (payloadReceived b s) =
      some ([s.hdr0, s.hdr1, s.hdr2] ++ payloadBytes s.pbuf s.pcnt.toNat ++ [b]) := by
  have hcovered : coveredBytes (payloadReceived b s) =
      some ([s.hdr0, s.hdr1, s.hdr2] ++ payloadBytes (s.pbuf.write s.pcnt.toNat b) (s.pcnt + 1#8).toNat) := by
    by_cases hlast : s.pcnt + 1#8 = s.hdr2 <;>
      simp [coveredBytes, payloadReceived, countPayload, State.advanceDcrc, hd, hlast]
  rw [hcovered, toNat_add_one_of_lt_pbufSize hin, payloadBytes_write_succ, List.append_assoc]

/-- The header checks keep the running CRC: AW_PAY starts with no payload, and the other outcomes cover the header or
nothing (R155). -/
theorem crcTracks_checkHeader {s : State} (h : s.dcrc = crc16 [s.hdr0, s.hdr1, s.hdr2]) :
    CrcTracks (checkHeader s) := by
  rcases checkHeader_cases s with ⟨-, heq⟩ | ⟨-, -, heq⟩ | ⟨-, -, -, heq⟩ | ⟨-, -, -, heq⟩ | ⟨-, -, -, heq⟩ <;>
    rw [heq]
  · exact crcTracks_of_coveredBytes_eq_none rfl
  · exact crcTracks_of_coveredBytes rfl h
  · exact crcTracks_of_coveredBytes_eq_none rfl
  · exact crcTracks_of_coveredBytes rfl h
  · exact crcTracks_of_coveredBytes_eq_none rfl

/-- A received byte keeps the running CRC: a CRC byte is not covered, and every other byte is appended. -/
theorem CrcTracks.of_receive {b : Byte} {s t : State} (h : CrcTracks s) (hrec : receive b s = .ok t) :
    CrcTracks t := by
  have hcov : ∀ d, s.dstate = d → coveredBytes s = coveredBytes { s with dstate := d } := fun d hd => by rw [← hd]
  rcases receive_cases hrec with ⟨-, rfl⟩ | ⟨hd, rfl⟩ | ⟨hd, rfl⟩ | ⟨hd, rfl⟩ | ⟨hd, hin, rfl⟩ | ⟨hd, rfl⟩ |
    ⟨hd, rfl⟩ | ⟨hd, rfl⟩ | ⟨hd, rfl⟩
  · exact h.congr rfl rfl
  · exact h.append (hcov _ hd) rfl rfl
  · exact h.append (hcov _ hd) rfl rfl
  · exact crcTracks_checkHeader (by
      rw [State.advanceDcrc_dcrc, h _ (hcov _ hd)]
      exact (crc16_concat _ b).symm)
  · exact h.append (hcov _ hd) (coveredBytes_payloadReceived hd hin) rfl
  · exact h.congr (hcov _ hd).symm rfl
  · rcases rxCrcHi_cases b s with ⟨-, heq⟩ | ⟨-, -, heq⟩ | ⟨-, -, heq⟩ <;> rw [heq]
    · exact crcTracks_of_coveredBytes_eq_none rfl
    · exact crcTracks_of_coveredBytes_eq_none rfl
    · exact h.congr (hcov _ hd).symm rfl
  · exact h.congr (hcov _ hd).symm rfl
  · rcases rxXCrcHi_cases b s with ⟨-, heq⟩ | ⟨-, heq⟩ <;> rw [heq] <;> exact crcTracks_of_coveredBytes_eq_none rfl

/-- Every move of the decoder keeps the running CRC: all but a received byte leave the covered bytes or empty them. -/
theorem CrcTracks.of_decoderMove {s t : State} (h : DecoderMove s t) (hs : CrcTracks s) : CrcTracks t := by
  cases h with
  | keep => exact hs
  | reset => exact crcTracks_of_coveredBytes_eq_none rfl
  | arm => exact crcTracks_of_coveredBytes rfl rfl
  | byte _ b hrec => exact hs.of_receive hrec
  | abort => exact crcTracks_of_coveredBytes_eq_none rfl
  | setaddr => exact hs.congr rfl rfl

/-- The running CRC is a matter of the decoder and PBUF alone. -/
theorem CrcTracks.of_sameDecoder {s t : State} (h : SameDecoder s t) (hs : CrcTracks s) : CrcTracks t := by
  obtain ⟨c, x, r, v, p, rfl⟩ := h
  exact hs.congr rfl rfl

/-- Settles O51: the running CRC is kept along every move of the decoder. -/
theorem stepKeepsRunningCrc : Obligations.StepKeepsRunningCrc := fun _ _ hs h =>
  step_keeps_of_decoderMove (fun _ _ => CrcTracks.of_sameDecoder) (fun _ _ => CrcTracks.of_decoderMove) h hs

end Sys2Proof.Machine
end

section
/-! SUPPORT. The decoder's answer to a received byte: one equation per state, when there is an answer, and what it
leaves unchanged. -/

namespace Sys2Proof.Machine

variable {b : Byte} {s t : State}

theorem receive_of_quiescent (h : s.busy = false) : receive b s = .ok (rxStray b s) := by
  rcases busy_eq_false_iff.mp h with h | h | h <;> simp only [receive, h]

theorem receive_of_awAddr (h : s.dstate = .awAddr) : receive b s = .ok (rxAddr b s) := by simp only [receive, h]
theorem receive_of_awFunc (h : s.dstate = .awFunc) : receive b s = .ok (rxFunc b s) := by simp only [receive, h]
theorem receive_of_awB2 (h : s.dstate = .awB2) :
    receive b s = .ok (checkHeader { s.advanceDcrc b with hdr2 := b }) := by
  simp only [receive, h, rxB2]
theorem receive_of_awPay (h : s.dstate = .awPay) : receive b s = rxPay b s := by simp only [receive, h]
theorem receive_of_awCrcLo (h : s.dstate = .awCrcLo) : receive b s = .ok (rxCrcLo b s) := by simp only [receive, h]
theorem receive_of_awCrcHi (h : s.dstate = .awCrcHi) : receive b s = .ok (rxCrcHi b s) := by simp only [receive, h]
theorem receive_of_awXCrcLo (h : s.dstate = .awXCrcLo) : receive b s = .ok (rxXCrcLo b s) := by
  simp only [receive, h]
theorem receive_of_awXCrcHi (h : s.dstate = .awXCrcHi) : receive b s = .ok (rxXCrcHi b s) := by
  simp only [receive, h]

/-- The decoder answers every byte for which PBUF has room. -/
theorem exists_receive_eq_ok (b : Byte) (h : s.dstate = .awPay → s.pcnt.toNat < Config.pbufSize) :
    ∃ t, receive b s = .ok t := by
  cases hd : s.dstate with
  | awPay => exact ⟨_, (receive_of_awPay hd).trans (rxPay_eq_ok.mpr ⟨h hd, rfl⟩)⟩
  | idle | awAddr | awFunc | awB2 | awCrcLo | awCrcHi | awXCrcLo | awXCrcHi | done | err =>
    simp only [receive, hd]
    exact ⟨_, rfl⟩

/-- The decoder stops exactly at a payload byte for which PBUF has no room (log 4). -/
theorem receive_eq_error {f : Fault} : receive b s = .error f ↔
    s.dstate = .awPay ∧ Config.pbufSize ≤ s.pcnt.toNat ∧ f = .pbufNoSuchByte s.pcnt.toNat := by
  by_cases hroom : s.dstate = .awPay → s.pcnt.toNat < Config.pbufSize
  · obtain ⟨t, ht⟩ := exists_receive_eq_ok b hroom
    rw [ht]
    exact ⟨nofun, fun ⟨hd, hfull, _⟩ => absurd (hroom hd) hfull.not_gt⟩
  · obtain ⟨hd, hfull⟩ := Classical.not_imp.mp hroom
    rw [receive_of_awPay hd, rxPay, storePbuf, if_neg hfull]
    simp [hd, not_lt.mp hfull, eq_comm]

/-- The header checks write decoder registers only. -/
theorem checkHeader_frame (s : State) : ∃ d p e, checkHeader s = { s with dstate := d, pcnt := p, errcls := e } := by
  rcases checkHeader_cases s with ⟨-, heq⟩ | ⟨-, -, heq⟩ | ⟨-, -, -, heq⟩ | ⟨-, -, -, heq⟩ | ⟨-, -, -, heq⟩ <;>
    exact ⟨_, _, _, heq⟩

theorem rxCrcHi_frame (b : Byte) (s : State) : ∃ d e, rxCrcHi b s = { s with dstate := d, errcls := e } := by
  rcases rxCrcHi_cases b s with ⟨-, heq⟩ | ⟨-, -, heq⟩ | ⟨-, -, heq⟩ <;> exact ⟨_, _, heq⟩

theorem rxXCrcHi_frame (b : Byte) (s : State) :
    ∃ d e x, rxXCrcHi b s = { s with dstate := d, errcls := e, excode := x } := by
  rcases rxXCrcHi_cases b s with ⟨-, heq⟩ | ⟨-, heq⟩ <;> exact ⟨_, _, _, heq⟩

/-- What every received byte leaves unchanged. -/
structure ReceiveFrame (s t : State) : Prop where
  crc : t.crc = s.crc
  devaddr : t.devaddr = s.devaddr
  expcnt : t.expcnt = s.expcnt
  tx : t.tx = s.tx
  rstat : t.rstat = s.rstat
  rval : t.rval = s.rval
  port : t.port = s.port
  pbuf : s.dstate ≠ .awPay → t.pbuf = s.pbuf

theorem ReceiveFrame.of_registers (s : State) (d : DState) (h0 h1 h2 p l x : Byte) (c : Half) (e : ErrCls) (y : Bool) :
    ReceiveFrame s { s with
      dstate := d, hdr0 := h0, hdr1 := h1, hdr2 := h2, dcrc := c, pcnt := p, rclo := l, errcls := e, excode := x,
      stray := y } :=
  ⟨rfl, rfl, rfl, rfl, rfl, rfl, rfl, fun _ => rfl⟩

theorem receive_frame (h : receive b s = .ok t) : ReceiveFrame s t := by
  rcases receive_cases h with ⟨-, rfl⟩ | ⟨-, rfl⟩ | ⟨-, rfl⟩ | ⟨-, rfl⟩ | ⟨hd, -, rfl⟩ | ⟨-, rfl⟩ | ⟨-, rfl⟩ |
    ⟨-, rfl⟩ | ⟨-, rfl⟩
  · exact .of_registers ..
  · exact .of_registers ..
  · exact .of_registers ..
  · obtain ⟨d, p, e, heq⟩ := checkHeader_frame { s.advanceDcrc b with hdr2 := b }
    rw [heq]
    exact .of_registers ..
  · exact ⟨rfl, rfl, rfl, rfl, rfl, rfl, rfl, fun hne => absurd hd hne⟩
  · exact .of_registers ..
  · obtain ⟨d, e, heq⟩ := rxCrcHi_frame b s
    rw [heq]
    exact .of_registers ..
  · exact .of_registers ..
  · obtain ⟨d, e, x, heq⟩ := rxXCrcHi_frame b s
    rw [heq]
    exact .of_registers ..

/-! Beside storing a payload byte, the decoder reads neither the CRC unit nor the result interface nor PBUF: a byte does
the same with any of them in their place. -/

/-- The state with another CRC unit, result interface and PBUF. -/
def State.withUnread (s : State) (c : Half) (r : RStat) (v : Word) (m : Memory) : State :=
  { s with crc := c, rstat := r, rval := v, pbuf := m }

theorem checkHeader_withUnread (s : State) (c : Half) (r : RStat) (v : Word) (m : Memory) :
    checkHeader (s.withUnread c r v m) = (checkHeader s).withUnread c r v m := by
  unfold checkHeader State.withUnread
  dsimp only
  split_ifs <;> rfl

theorem rxCrcHi_withUnread (b : Byte) (s : State) (c : Half) (r : RStat) (v : Word) (m : Memory) :
    rxCrcHi b (s.withUnread c r v m) = (rxCrcHi b s).withUnread c r v m := by
  unfold rxCrcHi State.withUnread
  dsimp only
  split_ifs <;> rfl

theorem rxXCrcHi_withUnread (b : Byte) (s : State) (c : Half) (r : RStat) (v : Word) (m : Memory) :
    rxXCrcHi b (s.withUnread c r v m) = (rxXCrcHi b s).withUnread c r v m := by
  unfold rxXCrcHi State.withUnread
  dsimp only
  split_ifs <;> rfl

/-- Outside AW_PAY a byte does the same whatever the elements it does not read hold. -/
theorem receive_withUnread (hne : s.dstate ≠ .awPay) (h : receive b s = .ok t) (c : Half) (r : RStat) (v : Word)
    (m : Memory) : receive b (s.withUnread c r v m) = .ok (t.withUnread c r v m) := by
  rcases receive_cases h with ⟨hquiet, rfl⟩ | ⟨hd, rfl⟩ | ⟨hd, rfl⟩ | ⟨hd, rfl⟩ | ⟨hd, -, -⟩ | ⟨hd, rfl⟩ |
    ⟨hd, rfl⟩ | ⟨hd, rfl⟩ | ⟨hd, rfl⟩
  · exact receive_of_quiescent hquiet
  · exact receive_of_awAddr hd
  · exact receive_of_awFunc hd
  · rw [← checkHeader_withUnread]; exact receive_of_awB2 hd
  · exact absurd hd hne
  · exact receive_of_awCrcLo hd
  · rw [← rxCrcHi_withUnread]; exact receive_of_awCrcHi hd
  · exact receive_of_awXCrcLo hd
  · rw [← rxXCrcHi_withUnread]; exact receive_of_awXCrcHi hd

end Sys2Proof.Machine
end

section
/-! SUPPORT. Two states that differ only in PBUF bytes which the open exchange has not written (R36, I1) answer every
command, every host event and so every step alike. -/

namespace Sys2Proof.Machine

theorem samePayload_iff {s t : State} : SamePayload s t ↔ ∃ m, t = { s with pbuf := m } ∧
    (dstateInPayload s.dstate = true → ∀ i, i < s.pcnt.toNat → s.pbuf.read i = m.read i) := by
  constructor
  · exact fun ⟨hrest, hpay⟩ => ⟨t.pbuf, hrest, hpay⟩
  · rintro ⟨m, rfl, hpay⟩
    exact ⟨rfl, hpay⟩

/-- The function neither reads nor writes PBUF. -/
def IgnoresPbuf (f : State → State) : Prop := ∀ s m, f { s with pbuf := m } = { f s with pbuf := m }

/-- What ignores PBUF keeps two states alike, if it enters the payload states only with no payload counted. -/
theorem SamePayload.map {s t : State} (h : SamePayload s t) {f : State → State} (hf : IgnoresPbuf f)
    (hpay : dstateInPayload (f s).dstate = true →
      dstateInPayload s.dstate = true ∧ (f s).pcnt = s.pcnt ∨ (f s).pcnt = 0#8) : SamePayload (f s) (f t) := by
  obtain ⟨m, rfl, hm⟩ := samePayload_iff.mp h
  refine samePayload_iff.mpr ⟨m, hf s m, fun hd i hi => ?_⟩
  have hkept : f s = { f s with pbuf := s.pbuf } := hf s s.pbuf
  rcases hpay hd with ⟨hin, hcount⟩ | hzero
  · rw [hkept]
    exact hm hin i (hcount ▸ hi)
  · rw [hzero] at hi
    exact absurd hi (Nat.not_lt_zero i)

/-- What ignores PBUF and leaves DSTATE and PCNT keeps two states alike. -/
theorem SamePayload.map_of_eq {s t : State} (h : SamePayload s t) {f : State → State} (hf : IgnoresPbuf f)
    (hd : (f s).dstate = s.dstate) (hp : (f s).pcnt = s.pcnt) : SamePayload (f s) (f t) :=
  h.map hf fun hin => .inl ⟨hd ▸ hin, hp⟩

/-- What ignores PBUF and leaves no payload counted keeps two states alike. -/
theorem SamePayload.map_of_pcnt_eq_zero {s t : State} (h : SamePayload s t) {f : State → State} (hf : IgnoresPbuf f)
    (hp : (f s).pcnt = 0#8) : SamePayload (f s) (f t) :=
  h.map hf fun _ => .inr hp

theorem SamePayload.result {s t : State} (h : SamePayload s t) (r : RStat) (v : Word) :
    SamePayload (s.result r v) (t.result r v) :=
  h.map_of_eq (f := (State.result · r v)) (fun _ _ => rfl) rfl rfl

theorem SamePayload.fail {s t : State} (h : SamePayload s t) (r : RStat) : SamePayload (s.fail r) (t.fail r) :=
  h.result r 0#32

theorem SamePayload.sendRequest {s t : State} (h : SamePayload s t) (start : Half) (words : Byte) :
    SamePayload (sendRequest s start words) (sendRequest t start words) :=
  h.map_of_eq (f := (Machine.sendRequest · start words)) (fun _ _ => rfl) rfl rfl

theorem SamePayload.withPort {s t : State} (h : SamePayload s t) (p : List HostEvent) :
    SamePayload { s with port := p } { t with port := p } :=
  h.map_of_eq (f := fun s => { s with port := p }) (fun _ _ => rfl) rfl rfl

/-! What a command can read of the state, PBUF aside, is the same in both states. -/

theorem SamePayload.dstate_eq {s t : State} (h : SamePayload s t) : t.dstate = s.dstate := by rw [h.rest]
theorem SamePayload.busy_eq {s t : State} (h : SamePayload s t) : t.busy = s.busy := by rw [h.rest]; rfl
theorem SamePayload.status_eq {s t : State} (h : SamePayload s t) : t.status = s.status := by rw [h.rest]; rfl
theorem SamePayload.pcnt_eq {s t : State} (h : SamePayload s t) : t.pcnt = s.pcnt := by rw [h.rest]
theorem SamePayload.tx_eq {s t : State} (h : SamePayload s t) : t.tx = s.tx := by rw [h.rest]
theorem SamePayload.rstat_eq {s t : State} (h : SamePayload s t) : t.rstat = s.rstat := by rw [h.rest]
theorem SamePayload.rval_eq {s t : State} (h : SamePayload s t) : t.rval = s.rval := by rw [h.rest]
theorem SamePayload.port_eq {s t : State} (h : SamePayload s t) : t.port = s.port := by rw [h.rest]

/-! ### A received byte -/

/-- The header checks lead to AW_PAY alone of the payload states, with no payload counted (R155). -/
theorem pcnt_checkHeader {s : State} (h : dstateInPayload (checkHeader s).dstate = true) :
    (checkHeader s).pcnt = 0#8 := by
  rcases checkHeader_cases s with ⟨-, heq⟩ | ⟨-, -, heq⟩ | ⟨-, -, -, heq⟩ | ⟨-, -, -, heq⟩ | ⟨-, -, -, heq⟩ <;>
    rw [heq] at h ⊢
  · cases h
  · cases h
  · cases h
  · cases h

/-- A byte that is not stored leads to a payload state only from one with the same count, or with no payload counted. -/
theorem receive_pcnt {b : Byte} {s t : State} (hne : s.dstate ≠ .awPay) (h : receive b s = .ok t)
    (hin : dstateInPayload t.dstate = true) : dstateInPayload s.dstate = true ∧ t.pcnt = s.pcnt ∨ t.pcnt = 0#8 := by
  rcases receive_cases h with ⟨-, rfl⟩ | ⟨-, rfl⟩ | ⟨-, rfl⟩ | ⟨-, rfl⟩ | ⟨hd, -, -⟩ | ⟨hd, rfl⟩ | ⟨hd, rfl⟩ |
    ⟨-, rfl⟩ | ⟨-, rfl⟩
  · exact .inl ⟨hin, rfl⟩
  · cases hin
  · cases hin
  · exact .inr (pcnt_checkHeader hin)
  · exact absurd hd hne
  · exact .inl ⟨by rw [hd]; rfl, rfl⟩
  · obtain ⟨d, e, heq⟩ := rxCrcHi_frame b s
    exact .inl ⟨by rw [hd]; rfl, by rw [heq]⟩
  · cases hin
  · rcases rxXCrcHi_cases b s with ⟨-, heq⟩ | ⟨-, heq⟩ <;> rw [heq] at hin <;> cases hin

/-- A payload byte stored in both states leaves them alike: it joins the payload of both (R156). -/
theorem SamePayload.payloadReceived {s t : State} (h : SamePayload s t) (hd : s.dstate = .awPay)
    (hin : s.pcnt.toNat < Config.pbufSize) (b : Byte) : SamePayload (payloadReceived b s) (payloadReceived b t) := by
  obtain ⟨m, rfl, hm⟩ := samePayload_iff.mp h
  refine samePayload_iff.mpr ⟨m.write s.pcnt.toNat b, rfl, fun _ i hi => ?_⟩
  have hi : i < s.pcnt.toNat + 1 := toNat_add_one_of_lt_pbufSize hin ▸ hi
  change (s.pbuf.write s.pcnt.toNat b).read i = (m.write s.pcnt.toNat b).read i
  rw [Memory.read_write, Memory.read_write]
  split
  · rfl
  · exact hm (by rw [hd]; rfl) i (by omega)

/-- A byte that the decoder answers in one state it answers alike in the other. -/
theorem SamePayload.receive_ok {b : Byte} {s t u : State} (h : SamePayload s t) (hrec : receive b s = .ok u) :
    ∃ v, receive b t = .ok v ∧ SamePayload u v := by
  by_cases hd : s.dstate = .awPay
  · obtain ⟨hin, rfl⟩ := rxPay_eq_ok.mp ((receive_of_awPay hd).symm.trans hrec)
    refine ⟨Machine.payloadReceived b t, ?_, h.payloadReceived hd hin b⟩
    rw [receive_of_awPay (h.dstate_eq.trans hd)]
    exact rxPay_eq_ok.mpr ⟨h.pcnt_eq ▸ hin, rfl⟩
  · obtain ⟨m, rfl, hm⟩ := samePayload_iff.mp h
    have hframe := receive_frame hrec
    refine ⟨{ u with pbuf := m }, ?_, samePayload_iff.mpr ⟨m, rfl, fun hin i hi => ?_⟩⟩
    · have hsame : u.withUnread s.crc s.rstat s.rval m = { u with pbuf := m } := by
        rw [← hframe.crc, ← hframe.rstat, ← hframe.rval, State.withUnread]
      exact (receive_withUnread hd hrec s.crc s.rstat s.rval m).trans (congrArg _ hsame)
    · rcases receive_pcnt hd hrec hin with ⟨hs, hp⟩ | hp <;> rw [hp] at hi
      · rw [hframe.pbuf hd]
        exact hm hs i hi
      · exact absurd hi (Nat.not_lt_zero i)

/-- A byte at which the decoder stops in one state stops it in the other. -/
theorem SamePayload.receive_error {b : Byte} {s t : State} {f : Fault} (h : SamePayload s t)
    (hrec : receive b s = .error f) : receive b t = .error f := by
  rw [receive_eq_error] at hrec ⊢
  rwa [h.dstate_eq, h.pcnt_eq]

/-! ### Commands and steps -/

/-- Two outcomes that show the same: next states that differ only in unwritten PBUF bytes, or the same stop. -/
def SameAnswer : Result → Result → Prop
  | .next s, .next t => SamePayload s t
  | .fault f, .fault g => f = g
  | .refused r, .refused q => r = q
  | _, _ => False

theorem SamePayload.execEncRd {s t : State} (h : SamePayload s t) (start : Half) (words : Byte) :
    SameAnswer (execEncRd start words s) (execEncRd start words t) := by
  unfold Machine.execEncRd
  split
  · exact h.sendRequest start words
  · exact h.fail .arg

theorem SamePayload.execXchRd {s t : State} (h : SamePayload s t) (start : Half) (words : Byte) :
    SameAnswer (execXchRd start words s) (execXchRd start words t) := by
  unfold Machine.execXchRd
  rw [h.busy_eq]
  split
  · exact h.fail .busy
  · split
    · exact (h.sendRequest start words).map_of_pcnt_eq_zero (f := (State.arm · words)) (fun _ _ => rfl) rfl
    · exact h.fail .arg

theorem SamePayload.execDecByte {s t : State} (h : SamePayload s t) (b : Byte) :
    SameAnswer (execDecByte b s) (execDecByte b t) := by
  unfold Machine.execDecByte
  cases hrec : receive b s with
  | ok u =>
    obtain ⟨v, hv, huv⟩ := h.receive_ok hrec
    rw [hv]
    change SamePayload (u.result .ok u.status) (v.result .ok v.status)
    rw [huv.status_eq]
    exact huv.result .ok u.status
  | error f =>
    rw [h.receive_error hrec]
    exact rfl

/-- DEC.RDBUF reads PBUF only in DONE below PCNT, where both states hold the same (R165). -/
theorem SamePayload.execDecRdbuf {s t : State} (h : SamePayload s t) (i : Byte) :
    SameAnswer (execDecRdbuf i s) (execDecRdbuf i t) := by
  unfold Machine.execDecRdbuf
  rw [h.dstate_eq, h.pcnt_eq]
  split
  · exact h.fail .notReady
  · rename_i hd
    split
    · exact h.fail .arg
    · rename_i hi
      have hread := h.payload (by rw [not_not.mp hd]; rfl) i.toNat (Nat.lt_of_not_le hi)
      have hload : loadPbuf t i.toNat = loadPbuf s i.toNat := by rw [loadPbuf, loadPbuf, hread]
      rw [hload]
      split
      · exact h.result .ok _
      · exact rfl

theorem SamePayload.execCfgSetaddr {s t : State} (h : SamePayload s t) (a : Byte) :
    SameAnswer (execCfgSetaddr a s) (execCfgSetaddr a t) := by
  unfold Machine.execCfgSetaddr
  rw [h.busy_eq]
  split
  · exact h.fail .busy
  · split
    · exact h.map_of_eq (f := fun s => { s with devaddr := a }.result .ok (zextByte a)) (fun _ _ => rfl) rfl rfl
    · exact h.fail .arg

/-- Every command answers alike. -/
theorem SamePayload.exec {s t : State} (h : SamePayload s t) (i : Instr) : SameAnswer (exec i s) (exec i t) := by
  cases i with
  | crcInit =>
    exact h.map_of_eq (f := fun s => { s with crc := Config.crcSeed }.result .ok (zextHalf Config.crcSeed))
      (fun _ _ => rfl) rfl rfl
  | crcByte b =>
    exact h.map_of_eq (f := fun s => { s with crc := crcUpdate s.crc b }.result .ok (zextHalf (crcUpdate s.crc b)))
      (fun _ _ => rfl) rfl rfl
  | crcRead => exact h.map_of_eq (f := fun s => s.result .ok (zextHalf s.crc)) (fun _ _ => rfl) rfl rfl
  | crcCheck lo hi =>
    exact h.map_of_eq (f := fun s => s.result .ok (if s.crc = hiLo hi lo then 1#32 else 0#32)) (fun _ _ => rfl) rfl rfl
  | encRd start words => exact h.execEncRd start words
  | xchRd start words => exact h.execXchRd start words
  | decByte b => exact h.execDecByte b
  | decAbort => exact h.map_of_pcnt_eq_zero (f := fun s => s.clearDecoder.result .ok 0#32) (fun _ _ => rfl) rfl
  | decRdbuf k => exact h.execDecRdbuf k
  | decStatus => exact h.map_of_eq (f := fun s => s.result .ok s.status) (fun _ _ => rfl) rfl rfl
  | cfgSetaddr a => exact h.execCfgSetaddr a
  | cfgGetaddr => exact h.map_of_eq (f := fun s => s.result .ok (zextByte s.devaddr)) (fun _ _ => rfl) rfl rfl

/-- Every command word answers alike. -/
theorem SamePayload.runWord {s t : State} (h : SamePayload s t) (w : Word) :
    SameAnswer (runWord w s) (runWord w t) := by
  unfold Machine.runWord
  split
  · exact h.exec _
  · exact h.fail .illegal

/-- Reset writes every element that the two states could differ in. -/
theorem SamePayload.applyReset {s t : State} (h : SamePayload s t) : SamePayload s.applyReset t.applyReset := by
  rw [h.rest]
  exact ⟨rfl, fun _ _ _ => rfl⟩

/-- Every step answers alike. -/
theorem SamePayload.step {s t : State} (h : SamePayload s t) : SameAnswer (step s) (step t) := by
  unfold Machine.step nextEvent
  rw [h.port_eq]
  cases s.port with
  | nil => exact h
  | cons e rest =>
    have hrest := h.withPort rest
    cases e with
    | command w => exact hrest.runWord w
    | takeTx => exact hrest.map_of_eq (f := State.takeTx) (fun _ _ => rfl) rfl rfl
    | reset => exact hrest.applyReset

/-- Settles O34: two states that differ only in unwritten PBUF bytes answer every step alike, and the reset state is
such a one with any PBUF, since it counts no payload. -/
theorem unwrittenPayloadBytesAreUnobservable : Obligations.UnwrittenPayloadBytesAreUnobservable := by
  refine ⟨fun m p => samePayload_iff.mpr ⟨m, rfl, nofun⟩, fun s t s' h hs => ?_, fun s t f h hs => ?_⟩
  · have hstep := h.step
    rw [hs] at hstep
    cases ht : step t with
    | next t' =>
      rw [ht] at hstep
      have hst : SamePayload s' t' := hstep
      exact ⟨t', rfl, hst.rstat_eq, hst.rval_eq, hst.status_eq, hst.tx_eq, hst⟩
    | fault g => rw [ht] at hstep; cases hstep
    | refused r => rw [ht] at hstep; cases hstep
  · have hstep := h.step
    rw [hs] at hstep
    cases ht : step t with
    | next t' => rw [ht] at hstep; cases hstep
    | fault g => rw [ht] at hstep; exact congrArg _ (Eq.symm hstep)
    | refused r => rw [ht] at hstep; cases hstep

end Sys2Proof.Machine
end

section
/-! Which elements a command writes (R42), the moves of DSTATE (R26), where the model stops (log 4), and why no command
stops in a state that meets the invariants (R41). -/

namespace Sys2Proof.Machine

/-- Settles O43: the commands that answer only a result write nothing of the table, and for the others their update
names what they write. -/
theorem commandsWriteOnlyTheirElements : Obligations.CommandsWriteOnlyTheirElements := by
  intro i s t h
  cases i with
  | crcInit => obtain rfl := execCrcInit_cases h; simp [Instr.toSource]
  | crcByte b => obtain rfl := execCrcByte_cases h; simp [Instr.toSource]
  | crcRead => obtain rfl := execCrcRead_cases h; simp
  | crcCheck lo hi => obtain rfl := execCrcCheck_cases h; simp
  | encRd start words =>
    rcases execEncRd_cases h with ⟨-, rfl⟩ | ⟨-, rfl⟩
    · simp [Instr.toSource, sendRequest]
    · simp
  | xchRd start words =>
    rcases execXchRd_cases h with ⟨-, rfl⟩ | ⟨-, -, rfl⟩ | ⟨-, -, rfl⟩
    · simp
    · simp [Instr.toSource, sendRequest]
    · simp
  | decByte b =>
    obtain ⟨u, hu, rfl⟩ := execDecByte_cases h
    obtain ⟨hcrc, haddr, hexp, htx, -, -, hport, -⟩ := receive_frame hu
    simp [Instr.toSource, hcrc, haddr, hexp, htx, hport]
  | decAbort => obtain rfl := execDecAbort_cases h; simp [Instr.toSource]
  | decRdbuf k => rcases execDecRdbuf_cases h with ⟨-, rfl⟩ | ⟨-, -, rfl⟩ | ⟨-, -, -, rfl⟩ <;> simp
  | decStatus => obtain rfl := execDecStatus_cases h; simp
  | cfgSetaddr a =>
    rcases execCfgSetaddr_cases h with ⟨-, rfl⟩ | ⟨-, -, rfl⟩ | ⟨-, -, rfl⟩
    · simp
    · simp [Instr.toSource]
    · simp
  | cfgGetaddr => obtain rfl := execCfgGetaddr_cases h; simp

/-- A received byte leaves DSTATE or moves it along one of the decoder's transitions (R26). -/
theorem receive_dstate {b : Byte} {s t : State} (h : receive b s = .ok t) : t.dstate = s.dstate ∨
    (s.dstate, t.dstate) ∈ [(DState.awAddr, DState.awFunc), (.awFunc, .awB2), (.awB2, .awPay), (.awB2, .awXCrcLo),
      (.awB2, .err), (.awPay, .awCrcLo), (.awCrcLo, .awCrcHi), (.awCrcHi, .done), (.awCrcHi, .err),
      (.awXCrcLo, .awXCrcHi), (.awXCrcHi, .err)] := by
  rcases receive_cases h with ⟨-, rfl⟩ | ⟨hd, rfl⟩ | ⟨hd, rfl⟩ | ⟨hd, rfl⟩ | ⟨hd, -, rfl⟩ | ⟨hd, rfl⟩ | ⟨hd, rfl⟩ |
    ⟨hd, rfl⟩ | ⟨hd, rfl⟩
  · exact .inl rfl
  · simp [hd, rxAddr]
  · simp [hd, rxFunc]
  · rcases checkHeader_cases { s.advanceDcrc b with hdr2 := b } with ⟨-, heq⟩ | ⟨-, -, heq⟩ | ⟨-, -, -, heq⟩ |
      ⟨-, -, -, heq⟩ | ⟨-, -, -, heq⟩ <;> rw [heq] <;> simp [hd]
  · by_cases hlast : s.pcnt + 1#8 = s.hdr2 <;> simp [hd, payloadReceived, countPayload, hlast]
  · simp [hd, rxCrcLo]
  · rcases rxCrcHi_cases b s with ⟨-, heq⟩ | ⟨-, -, heq⟩ | ⟨-, -, heq⟩ <;> rw [heq] <;> simp [hd]
  · simp [hd, rxXCrcLo]
  · rcases rxXCrcHi_cases b s with ⟨-, heq⟩ | ⟨-, heq⟩ <;> rw [heq] <;> simp [hd]

/-- Settles O44: by the access table only three commands write DSTATE, and each moves it as listed. -/
theorem decoderMovesAlongItsTransitions : Obligations.DecoderMovesAlongItsTransitions := by
  intro i s t h hmoved
  obtain ⟨-, -, -, hregs, -⟩ := commandsWriteOnlyTheirElements i s t h
  have hwriter : i.toSource.mnemonic ∈ [Mnemonic.xchRd, .decByte, .decAbort] :=
    by_contra fun hno => hmoved (hregs hno).1
  cases i with
  | xchRd start words =>
    rcases execXchRd_cases h with ⟨-, rfl⟩ | ⟨hquiet, -, rfl⟩ | ⟨-, -, rfl⟩
    · exact absurd rfl hmoved
    · exact .inl ⟨rfl, by simpa using busy_eq_false_iff.mp hquiet, rfl⟩
    · exact absurd rfl hmoved
  | decAbort => obtain rfl := execDecAbort_cases h; exact .inr (.inl ⟨rfl, rfl⟩)
  | decByte b =>
    obtain ⟨u, hu, rfl⟩ := execDecByte_cases h
    exact .inr (.inr ⟨rfl, (receive_dstate hu).resolve_left hmoved⟩)
  | _ => simp [Instr.toSource] at hwriter

/-! ### Where the model stops -/

theorem exec_decByte_of_receive_ok {b : Byte} {s u : State} (h : receive b s = .ok u) :
    exec (.decByte b) s = .next (u.result .ok u.status) := by
  simp only [exec, execDecByte, h]

theorem exec_decByte_of_receive_error {b : Byte} {s : State} {f : Fault} (h : receive b s = .error f) :
    exec (.decByte b) s = .fault f := by
  simp only [exec, execDecByte, h]

theorem exec_decRdbuf_of_lt_pbufSize {i : Byte} {s : State} (hd : s.dstate = .done) (hlt : i.toNat < s.pcnt.toNat)
    (hin : i.toNat < Config.pbufSize) :
    exec (.decRdbuf i) s = .next (s.result .ok (zextByte (s.pbuf.read i.toNat))) := by
  simp only [exec, execDecRdbuf, if_neg (not_not.mpr hd), if_neg hlt.not_ge, loadPbuf_eq_ok.mpr ⟨hin, rfl⟩]

theorem exec_decRdbuf_of_pbufSize_le {i : Byte} {s : State} (hd : s.dstate = .done) (hlt : i.toNat < s.pcnt.toNat)
    (hout : Config.pbufSize ≤ i.toNat) : exec (.decRdbuf i) s = .fault (.pbufNoSuchByte i.toNat) := by
  simp only [exec, execDecRdbuf, if_neg (not_not.mpr hd), if_neg hlt.not_ge, loadPbuf, if_neg hout.not_gt]

/-- DEC.RDBUF answers an index that lies in PBUF or is not below PCNT. -/
theorem exec_decRdbuf_answers (i : Byte) {s : State}
    (h : s.dstate = .done → i.toNat < s.pcnt.toNat → i.toNat < Config.pbufSize) :
    ∃ t, exec (.decRdbuf i) s = .next t := by
  by_cases hd : s.dstate = .done
  · by_cases hi : i.toNat < s.pcnt.toNat
    · exact ⟨_, exec_decRdbuf_of_lt_pbufSize hd hi (h hd hi)⟩
    · exact ⟨s.fail .arg, (if_neg (not_not.mpr hd)).trans (if_pos (not_lt.mp hi))⟩
  · exact ⟨s.fail .notReady, if_pos hd⟩

/-- Every command answers where the two commands that touch PBUF find their byte. -/
theorem exec_answers (i : Instr) {s : State} (hpay : s.dstate = .awPay → s.pcnt.toNat < Config.pbufSize)
    (hdone : s.dstate = .done → s.pcnt.toNat ≤ Config.pbufSize) : ∃ t, exec i s = .next t := by
  cases i with
  | encRd start words => simp only [exec, execEncRd]; split_ifs <;> exact ⟨_, rfl⟩
  | xchRd start words => simp only [exec, execXchRd]; split_ifs <;> exact ⟨_, rfl⟩
  | cfgSetaddr a => simp only [exec, execCfgSetaddr]; split_ifs <;> exact ⟨_, rfl⟩
  | decByte b =>
    obtain ⟨u, hu⟩ := exists_receive_eq_ok b hpay
    exact ⟨_, exec_decByte_of_receive_ok hu⟩
  | decRdbuf k => exact exec_decRdbuf_answers k fun hd hk => hk.trans_le (hdone hd)
  | crcInit | crcByte | crcRead | crcCheck | decAbort | decStatus | cfgGetaddr => exact ⟨_, rfl⟩

/-- The invariants keep PCNT inside PBUF wherever a command uses it (R41 (f), (g)). -/
theorem Inv.exec_answers {s : State} (h : Inv s) (i : Instr) : ∃ t, exec i s = .next t := by
  have hsize : Config.pbufSize = 250 := rfl
  refine Machine.exec_answers i (fun hd => ?_) (fun hd => ?_)
  · obtain ⟨-, hlen, hlt⟩ := h.inPayload hd
    omega
  · obtain ⟨hcount, -, hlen⟩ := h.afterPayload (.inr (.inr hd))
    rw [hcount]
    omega

/-- Settles O53: only a command can stop, and none does where the invariants hold. -/
theorem invariantStatesNeverStop : Obligations.InvariantStatesNeverStop := by
  intro s hs
  unfold Runs step nextEvent
  cases s.port with
  | nil => exact ⟨s, rfl⟩
  | cons e rest =>
    cases e with
    | takeTx => exact ⟨_, rfl⟩
    | reset => exact ⟨_, rfl⟩
    | command w =>
      have hrest : Inv { s with port := rest } := hs.of_sameDecoder ⟨_, _, _, _, _, rfl⟩
      simp only [runWord]
      split
      · exact hrest.exec_answers _
      · exact ⟨_, rfl⟩

/-- Settles O33: DEC.BYTE and DEC.RDBUF stop where PBUF has no byte for them. -/
theorem payloadBufferStops : Obligations.PayloadBufferStops :=
  ⟨fun _ _ hd hfull => exec_decByte_of_receive_error (receive_eq_error.mpr ⟨hd, hfull, rfl⟩),
    fun _ _ hd hlt hout => exec_decRdbuf_of_pbufSize_le hd hlt hout⟩

end Sys2Proof.Machine
end

section
/-! SUPPORT. The residue of a request frame (R104, R105) and what a command puts into TX (R37, R56). -/

namespace Sys2Proof.Machine

/-- A bit step of a register whose low bit is 0 halves it (R100). -/
theorem crcBit_of_even {c : Half} (h : c.toNat % 2 = 0) : (crcBit c).toNat = c.toNat / 2 := by
  have hlow : c.getLsbD 0 = false := by simp [BitVec.getLsbD, Nat.testBit_zero, h]
  rw [crcBit, hlow, if_neg Bool.false_ne_true, BitVec.toNat_ushiftRight, Nat.shiftRight_eq_div_pow, Nat.pow_one]

/-- As many bit steps as the register has low zero bits shift those out and leave the rest. -/
theorem crcBits_of_toNat_eq {n x : Nat} {c : Half} (h : c.toNat = x * 2 ^ n) : (crcBits n c).toNat = x := by
  induction n generalizing c with
  | zero => simpa using h
  | succ n ih =>
    have hdouble : c.toNat = x * 2 ^ n * 2 := by rw [h, Nat.pow_succ, Nat.mul_assoc]
    exact ih (by rw [crcBit_of_even (by omega)]; omega)

/-- XOR with its own low byte leaves a register its high byte alone. -/
theorem xor_zext16_lo8 (c : Half) : c ^^^ zext16 (lo8 c) = zext16 (hi8 c) <<< 8 := by
  ext i hi
  by_cases hlow : i < 8
  · simp [zext16, lo8, hlow, BitVec.getLsbD_eq_getElem hi]
  · have heq : 8 + (i - 8) = i := by omega
    have hhigh : i - 8 < 8 := by omega
    simp [zext16, lo8, hi8, hlow, heq, hhigh, BitVec.getLsbD_eq_getElem hi]

/-- Advancing by the register's own low byte moves its high byte down (R105). -/
theorem crcUpdate_lo8 (c : Half) : crcUpdate c (lo8 c) = zext16 (hi8 c) := by
  have hlt := (hi8 c).isLt
  have hshift : (zext16 (hi8 c) <<< 8).toNat = (hi8 c).toNat * 2 ^ 8 := by
    rw [BitVec.toNat_shiftLeft, zext16_toNat, Nat.shiftLeft_eq, Nat.mod_eq_of_lt (by omega)]
  apply BitVec.eq_of_toNat_eq
  rw [crcUpdate, xor_zext16_lo8, crcBits_of_toNat_eq hshift, zext16_toNat]

/-- Advancing by a byte that is the whole register leaves 0 (R105). -/
theorem crcUpdate_zext16 (b : Byte) : crcUpdate (zext16 b) b = 0#16 := by
  rw [crcUpdate, BitVec.xor_self]
  decide

/-- A sequence followed by its CRC bytes has residue 0 (R105). -/
theorem crc16_append_crcBytes (bs : List Byte) : crc16 (bs ++ crcBytes bs) = 0#16 := by
  rw [crc16_append, crcBytes, List.foldl_cons, List.foldl_cons, List.foldl_nil, crcUpdate_lo8, crcUpdate_zext16]

/-- A whole request frame to the device at `a` (R79, R130). -/
theorem buildReadRequest_frame (a : Byte) (start : Half) (words : Byte) :
    (buildReadRequest a start words).length = 8 ∧ crc16 (buildReadRequest a start words) = 0#16 ∧
      (buildReadRequest a start words).head? = some a :=
  ⟨rfl, crc16_append_crcBytes _, rfl⟩

/-- A command leaves TX or appends one request frame to the device's address. -/
theorem exec_tx {i : Instr} {s t : State} (h : exec i s = .next t) :
    t.tx = s.tx ∨ ∃ start words, t.tx = s.tx ++ buildReadRequest s.devaddr start words := by
  obtain ⟨-, -, -, -, -, htx, -⟩ := commandsWriteOnlyTheirElements i s t h
  cases i with
  | encRd start words =>
    rcases execEncRd_cases h with ⟨-, rfl⟩ | ⟨-, rfl⟩
    · exact .inr ⟨start, words, rfl⟩
    · exact .inl rfl
  | xchRd start words =>
    rcases execXchRd_cases h with ⟨-, rfl⟩ | ⟨-, -, rfl⟩ | ⟨-, -, rfl⟩
    · exact .inl rfl
    · exact .inr ⟨start, words, rfl⟩
    · exact .inl rfl
  | _ => exact .inl (htx (by simp [Instr.toSource]))

/-- Settles O45: the host's events take the head or leave TX, and a command appends a whole frame or leaves it. -/
theorem txChangesByHeadOrWholeFrame : Obligations.TxChangesByHeadOrWholeFrame := by
  intro s t h
  rcases step_cases h with ⟨-, rfl⟩ | ⟨rest, -, rfl⟩ | ⟨rest, -, rfl⟩ | ⟨w, rest, -, -, rfl⟩ |
    ⟨w, rest, i, -, -, hexec⟩
  · exact .inl rfl
  · simp only [State.takeTx_tx]
    cases s.tx with
    | nil => exact .inl rfl
    | cons b bs => exact .inr (.inl ⟨b, rfl⟩)
  · exact .inl rfl
  · exact .inl rfl
  · rcases exec_tx hexec with htx | ⟨start, words, htx⟩
    · exact .inl htx
    · obtain ⟨hlen, hcrc, hhead⟩ := buildReadRequest_frame s.devaddr start words
      exact .inr (.inr ⟨_, hlen, hcrc, hhead, htx⟩)

end Sys2Proof.Machine
end

section
/-! SUPPORT. The STATUS word as a sum of its fields, each read back at its place (R38). -/

namespace Sys2Proof.Machine

theorem flagBit_toNat (f : Bool) : (flagBit f).toNat = f.toNat := by cases f <;> rfl

/-- A field put above the bits of a word adds to its number. -/
theorem toNat_or_shiftLeft {w f : Word} {x y k : Nat} (hw : w.toNat = x) (hf : f.toNat = y) (hx : x < 2 ^ k)
    (hy : y * 2 ^ k < 2 ^ 32) : (w ||| f <<< k).toNat = x + y * 2 ^ k := by
  subst hw hf
  rw [BitVec.toNat_or, BitVec.toNat_shiftLeft, Nat.shiftLeft_eq, Nat.mod_eq_of_lt hy, Nat.or_comm,
    or_eq_add hx (Nat.mul_mod_left _ _), Nat.add_comm]

/-- The STATUS word as a number: every field lies above the ones before it (R38). -/
theorem State.status_toNat (s : State) : s.status.toNat =
    (dstateCode s.dstate).toNat + (errclsCode s.errcls).toNat * 2 ^ 4 + s.excode.toNat * 2 ^ 8 + s.pcnt.toNat * 2 ^ 16 +
      s.stray.toNat * 2 ^ 24 + s.busy.toNat * 2 ^ 25 := by
  have hd := (dstateCode s.dstate).isLt
  have he := (errclsCode s.errcls).isLt
  have hx := s.excode.isLt
  have hp := s.pcnt.isLt
  have hs := s.stray.toNat_lt
  have hb := s.busy.toNat_lt
  have hcode : ∀ c : BitVec 4, (c.setWidth 32).toNat = c.toNat := fun c => BitVec.toNat_setWidth_of_le (by decide)
  have hbyte : ∀ b : Byte, (zextByte b).toNat = b.toNat := fun b => BitVec.toNat_setWidth_of_le (by decide)
  have h4 := toNat_or_shiftLeft (k := 4) (hcode (dstateCode s.dstate)) (hcode (errclsCode s.errcls)) hd (by omega)
  have h8 := toNat_or_shiftLeft (k := 8) h4 (hbyte s.excode) (by omega) (by omega)
  have h16 := toNat_or_shiftLeft (k := 16) h8 (hbyte s.pcnt) (by omega) (by omega)
  have h24 := toNat_or_shiftLeft (k := 24) h16 (flagBit_toNat s.stray) (by omega) (by omega)
  exact toNat_or_shiftLeft (k := 25) h24 (flagBit_toNat s.busy) (by omega) (by omega)

/-- A field of a word, read off the word's number. -/
theorem extractLsb'_eq_of_toNat {w : Word} {k n : Nat} {x : BitVec n} (h : w.toNat / 2 ^ k % 2 ^ n = x.toNat) :
    w.extractLsb' k n = x := by
  apply BitVec.eq_of_toNat_eq
  rw [BitVec.extractLsb'_toNat, Nat.shiftRight_eq_div_pow, h]

/-- A flag of a word, read off the word's number. -/
theorem getLsbD_eq_of_toNat {w : Word} {k : Nat} {f : Bool} (h : w.toNat / 2 ^ k % 2 = f.toNat) :
    w.getLsbD k = f := by
  rw [BitVec.getLsbD, Nat.testBit_eq_decide_div_mod_eq, h]
  cases f <;> rfl

/-- Settles O36: each field is a quotient and remainder of the sum, and what lies above the sum is 0. -/
theorem statusWordFields : Obligations.StatusWordFields := by
  refine ⟨fun s => ?_, by decide, fun s => ⟨_, rfl, rfl⟩, fun s t b h => ?_⟩
  · have hsum := s.status_toNat
    have hd := (dstateCode s.dstate).isLt
    have he := (errclsCode s.errcls).isLt
    have hx := s.excode.isLt
    have hp := s.pcnt.isLt
    have hs := s.stray.toNat_lt
    have hb := s.busy.toNat_lt
    exact ⟨extractLsb'_eq_of_toNat (by omega), extractLsb'_eq_of_toNat (by omega), extractLsb'_eq_of_toNat (by omega),
      extractLsb'_eq_of_toNat (by omega), getLsbD_eq_of_toNat (by omega), getLsbD_eq_of_toNat (by omega),
      extractLsb'_eq_of_toNat (by rw [BitVec.toNat_ofNat]; omega)⟩
  · obtain ⟨u, -, rfl⟩ := execDecByte_cases h
    rfl

end Sys2Proof.Machine
end

section
/-! SUPPORT. The CRC unit and the other commands share no state (R23, R235): what a CRC command does is a matter of CRC
alone, and no other command reads CRC or an earlier result. -/

namespace Sys2Proof.Machine

/-- A CRC command always answers, and both CRC and its result are functions of CRC. -/
theorem exec_crcCommand {i : Instr} (hi : i.toSource.mnemonic ∈ [Mnemonic.crcInit, .crcByte, .crcRead, .crcCheck]) :
    ∃ (f : Half → Half) (g : Half → Word), ∀ s,
      exec i s = .next { s with crc := f s.crc, rstat := .ok, rval := g s.crc } := by
  cases i with
  | crcInit => exact ⟨fun _ => Config.crcSeed, fun _ => zextHalf Config.crcSeed, fun _ => rfl⟩
  | crcByte b => exact ⟨(crcUpdate · b), fun c => zextHalf (crcUpdate c b), fun _ => rfl⟩
  | crcRead => exact ⟨id, zextHalf, fun _ => rfl⟩
  | crcCheck b0 b1 => exact ⟨id, fun c => if c = hiLo b1 b0 then 1#32 else 0#32, fun _ => rfl⟩
  | _ => simp [Instr.toSource] at hi

/-- DEC.BYTE does the same whatever CRC and the result interface hold. -/
theorem receive_of_other_crc {b : Byte} {s u : State} (h : receive b s = .ok u) (c : Half) (r : RStat) (v : Word) :
    receive b { s with crc := c, rstat := r, rval := v } = .ok { u with crc := c, rstat := r, rval := v } := by
  by_cases hd : s.dstate = .awPay
  · obtain ⟨hin, rfl⟩ := rxPay_eq_ok.mp ((receive_of_awPay hd).symm.trans h)
    exact (receive_of_awPay (s := { s with crc := c, rstat := r, rval := v }) hd).trans (rxPay_eq_ok.mpr ⟨hin, rfl⟩)
  · have hkept : u.pbuf = s.pbuf := (receive_frame h).pbuf hd
    refine (receive_withUnread hd h c r v s.pbuf).trans ?_
    rw [← hkept, State.withUnread]

/-- A command outside the CRC unit does the same whatever CRC and the result interface hold. -/
theorem exec_of_other_crc {j : Instr} {s t : State}
    (hj : j.toSource.mnemonic ∉ [Mnemonic.crcInit, .crcByte, .crcRead, .crcCheck]) (h : exec j s = .next t)
    (c : Half) (r : RStat) (v : Word) :
    exec j { s with crc := c, rstat := r, rval := v } = .next { t with crc := c } := by
  cases j with
  | encRd start words =>
    rcases execEncRd_cases h with ⟨hargs, rfl⟩ | ⟨hargs, rfl⟩
    · exact if_pos hargs
    · exact if_neg (by simp [hargs])
  | xchRd start words =>
    rcases execXchRd_cases h with ⟨hbusy, rfl⟩ | ⟨hquiet, hargs, rfl⟩ | ⟨hquiet, hargs, rfl⟩
    · exact if_pos hbusy
    · exact (if_neg (ne_true_of_eq_false hquiet)).trans (if_pos hargs)
    · exact (if_neg (ne_true_of_eq_false hquiet)).trans (if_neg (ne_true_of_eq_false hargs))
  | decByte b =>
    obtain ⟨u, hu, rfl⟩ := execDecByte_cases h
    exact exec_decByte_of_receive_ok (receive_of_other_crc hu c r v)
  | decAbort => obtain rfl := execDecAbort_cases h; rfl
  | decRdbuf k =>
    rcases execDecRdbuf_cases h with ⟨hd, rfl⟩ | ⟨hd, hk, rfl⟩ | ⟨hd, hk, hin, rfl⟩
    · exact if_pos hd
    · exact (if_neg (not_not.mpr hd)).trans (if_pos hk)
    · exact exec_decRdbuf_of_lt_pbufSize (s := { s with crc := c, rstat := r, rval := v }) hd hk hin
  | decStatus => obtain rfl := execDecStatus_cases h; rfl
  | cfgSetaddr a =>
    rcases execCfgSetaddr_cases h with ⟨hbusy, rfl⟩ | ⟨hquiet, haddr, rfl⟩ | ⟨hquiet, haddr, rfl⟩
    · exact if_pos hbusy
    · exact (if_neg (ne_true_of_eq_false hquiet)).trans (if_pos haddr)
    · exact (if_neg (ne_true_of_eq_false hquiet)).trans (if_neg (ne_true_of_eq_false haddr))
  | cfgGetaddr => obtain rfl := execCfgGetaddr_cases h; rfl
  | crcInit | crcByte | crcRead | crcCheck => simp [Instr.toSource] at hj

/-- Settles O19: the other command keeps CRC, which is all that the CRC command reads, and does not read what the CRC
command writes. -/
theorem crcUnitSharesNothing : Obligations.CrcUnitSharesNothing := by
  intro i j s t hi hj h
  obtain ⟨f, g, hexec⟩ := exec_crcCommand hi
  have hcrc : t.crc = s.crc := (commandsWriteOnlyTheirElements j s t h).1 fun hwrites =>
    hj (List.mem_append_left [Mnemonic.crcRead, .crcCheck] hwrites)
  refine ⟨_, hexec s, ?_, ?_⟩
  · rw [execAll_cons_next (hexec s), execAll_cons_next (exec_of_other_crc hj h _ _ _)]
    rfl
  · rw [execAll_cons_next h, execAll_cons_next (hexec t), hcrc]
    rfl

end Sys2Proof.Machine
end

section
/-! SUPPORT. The codes of the enumerated registers, and the reset state. -/

namespace Sys2Proof.Machine

/-- Settles O37: the codes count up from 0, and the busy states are the codes 1 to 8. -/
theorem registerCodes : Obligations.RegisterCodes := by
  refine ⟨rfl, rfl, rfl, fun s => ?_⟩
  unfold State.busy
  cases s.dstate <;> decide

/-- The checks of R155 say nothing before a header has come. -/
theorem headerChecked_of_idle {s : State} (h : s.dstate = .idle) : HeaderChecked s := by
  constructor <;> simp [h, dstateInPayload]

/-- Settles O49: the reset state is idle, and the host's next acts are no part of the decoder. -/
theorem resetMeetsInvariants : Obligations.ResetMeetsInvariants := fun _ =>
  ⟨inv_reset.of_sameDecoder ⟨_, _, _, _, _, rfl⟩, crcTracks_of_coveredBytes_eq_none rfl, headerChecked_of_idle rfl⟩

end Sys2Proof.Machine
end

section
/-! SUPPORT. The reading commands (R57): what each answers is a new result on the same state, found without reading an
earlier result. -/

namespace Sys2Proof.Machine

section Reading

variable {i : Instr} (hi : i.toSource.mnemonic ∈ [Mnemonic.crcRead, .crcCheck, .decRdbuf, .decStatus, .cfgGetaddr])
include hi

/-- A reading command that answers writes the result alone, also where it faults (R42, R203). -/
theorem exec_reading_eq_result {s t : State} (h : exec i s = .next t) : ∃ r v, t = s.result r v := by
  cases i with
  | crcRead => exact ⟨_, _, execCrcRead_cases h⟩
  | crcCheck b0 b1 => exact ⟨_, _, execCrcCheck_cases h⟩
  | decRdbuf k =>
    rcases execDecRdbuf_cases h with ⟨-, hfail⟩ | ⟨-, -, hfail⟩ | ⟨-, -, -, hread⟩
    · exact ⟨_, _, hfail⟩
    · exact ⟨_, _, hfail⟩
    · exact ⟨_, _, hread⟩
  | decStatus => exact ⟨_, _, execDecStatus_cases h⟩
  | cfgGetaddr => exact ⟨_, _, execCfgGetaddr_cases h⟩
  | _ => simp [Instr.toSource] at hi

/-- A reading command does not read the result interface, and overwrites it: an earlier result makes no difference. -/
theorem exec_reading_of_result (s : State) (r : RStat) (v : Word) : exec i (s.result r v) = exec i s := by
  cases i with
  | crcRead | crcCheck | decRdbuf | decStatus | cfgGetaddr => rfl
  | _ => simp [Instr.toSource] at hi

end Reading

/-- Settles O46: the first issue changes the result alone, which the second issue does not read. -/
theorem readingCommandsAreIdempotent : Obligations.ReadingCommandsAreIdempotent := by
  intro i s t hi h
  obtain ⟨r, v, rfl⟩ := exec_reading_eq_result hi h
  exact ⟨rfl, (exec_reading_of_result hi s r v).trans h⟩

end Sys2Proof.Machine
end

section
/-! SUPPORT. The opcode map as a set of rows (R75, R76): every row tests the whole of OPC, no two rows share one, and so
a word has at most one row, whatever the order of the search. -/

namespace Sys2Proof

/-- OPC, the bits [31:24] of a word (R70). -/
def opcOf (w : Word) : Byte := w.extractLsb' 24 8

theorem rowMatches_eq_true {r : OpcodeRow} {w : Word} : rowMatches r w = true ↔ w &&& r.mask = r.pattern := by
  simp only [rowMatches, beq_iff_eq]

/-- Every row's mask covers OPC. -/
theorem opcOf_mask {r : OpcodeRow} (hr : r ∈ opcodeMap) : opcOf r.mask = BitVec.allOnes 8 := by
  revert r
  decide

/-- A word that a row matches has the row's OPC. -/
theorem opcOf_pattern_of_rowMatches {r : OpcodeRow} {w : Word} (hr : r ∈ opcodeMap) (h : rowMatches r w = true) :
    opcOf r.pattern = opcOf w := by
  have hmask : r.mask.extractLsb' 24 8 = BitVec.allOnes 8 := opcOf_mask hr
  rw [← rowMatches_eq_true.mp h, opcOf, BitVec.extractLsb'_and, hmask, BitVec.and_allOnes, opcOf]

/-- No two rows of the map have one OPC (R75). -/
theorem opcodeMap_opc_nodup : (opcodeMap.map fun r => opcOf r.pattern).Nodup := by decide

/-- At most one row matches a word (R76). -/
theorem opcodeRow_unique {r q : OpcodeRow} {w : Word} (hr : r ∈ opcodeMap) (hq : q ∈ opcodeMap)
    (hrw : rowMatches r w = true) (hqw : rowMatches q w = true) : r = q :=
  List.inj_on_of_nodup_map opcodeMap_opc_nodup hr hq
    ((opcOf_pattern_of_rowMatches hr hrw).trans (opcOf_pattern_of_rowMatches hq hqw).symm)

/-- Where at most one row matches, the search answers what that row builds, wherever it stands (R76). -/
theorem decodeRows_eq_some_iff {rows : List OpcodeRow} {w : Word} {i : Instr}
    (hunique : ∀ r ∈ rows, ∀ q ∈ rows, rowMatches r w = true → rowMatches q w = true → r = q) :
    decodeRows rows w = some i ↔ ∃ r ∈ rows, rowMatches r w = true ∧ r.build w = i := by
  induction rows with
  | nil => simp [decodeRows]
  | cons r rs ih =>
    by_cases hr : rowMatches r w = true
    · simp only [decodeRows, hr, if_true, Option.some.injEq]
      constructor
      · exact fun h => ⟨r, List.mem_cons_self, hr, h⟩
      · rintro ⟨q, hq, hqw, hbuild⟩
        rwa [hunique r List.mem_cons_self q hq hr hqw]
    · simp [decodeRows, hr, ih fun r hr q hq => hunique r (List.mem_cons_of_mem _ hr) q (List.mem_cons_of_mem _ hq)]

/-- Decoding answers what the one matching row of the map builds (R76). -/
theorem decode_eq_some_iff {w : Word} {i : Instr} :
    decode w = some i ↔ ∃ r ∈ opcodeMap, rowMatches r w = true ∧ r.build w = i :=
  decodeRows_eq_some_iff fun _ hr _ hq => opcodeRow_unique hr hq

/-- The rows in another order decode every word alike (R76). -/
theorem decodeRows_of_perm {rows : List OpcodeRow} (hperm : rows.Perm opcodeMap) (w : Word) :
    decodeRows rows w = decode w := by
  ext i
  rw [decode_eq_some_iff,
    decodeRows_eq_some_iff fun r hr q hq => opcodeRow_unique (hperm.mem_iff.mp hr) (hperm.mem_iff.mp hq)]
  simp only [hperm.mem_iff]

/-- Settles O3: a word's OPC selects its row, so the order of the rows is of no account. -/
theorem opcodeRowsNeverOverlap : Obligations.OpcodeRowsNeverOverlap := by
  refine ⟨fun w r q hr hq hrw hqw => ?_, fun w i => ?_, fun rows hperm w => decodeRows_of_perm hperm w⟩
  · rw [opcodeRow_unique hr hq hrw hqw]
  · simp only [decode_eq_some_iff, rowMatches_eq_true]

end Sys2Proof
end

section
/-! SUPPORT. The round trip between commands and words, by format (R71-R74): the encoded word matches its row, and the
row's fields are the operands. -/

namespace Sys2Proof

@[simp] theorem fieldLow_encodeB (opc b : Byte) : fieldLow (encodeB opc b) = b := by
  apply BitVec.eq_of_toNat_eq
  rw [fieldLow_toNat, encodeB_toNat]
  omega

@[simp] theorem fieldLow_encodeH (opc lo hi : Byte) : fieldLow (encodeH opc lo hi) = lo := by
  apply BitVec.eq_of_toNat_eq
  rw [fieldLow_toNat, encodeH_toNat]
  omega

@[simp] theorem fieldHi_encodeH (opc lo hi : Byte) : fieldHi (encodeH opc lo hi) = hi := by
  apply BitVec.eq_of_toNat_eq
  rw [fieldHi_toNat, encodeH_toNat]
  omega

@[simp] theorem fieldLow_encodeR (opc : Byte) (start : Half) (words : Byte) :
    fieldLow (encodeR opc start words) = words := by
  apply BitVec.eq_of_toNat_eq
  rw [fieldLow_toNat, encodeR_toNat]
  omega

@[simp] theorem fieldStart_encodeR (opc : Byte) (start : Half) (words : Byte) :
    fieldStart (encodeR opc start words) = start := by
  apply BitVec.eq_of_toNat_eq
  rw [fieldStart_toNat, encodeR_toNat]
  omega

section Rows
variable (opc : Byte) (m : Mnemonic) (f : Word → Instr) (w : Word)

/-! The words that a row matches are the words of its format with its OPC. -/

theorem rowMatches_iff_encodeN : rowMatches ⟨m, encodeN opc, 0xFFFFFFFF#32, f⟩ w = true ↔ encodeN opc = w := by
  rw [rowMatches_formatN, decide_eq_true_iff, BitVec.toNat_inj, eq_comm]

theorem rowMatches_iff_encodeB :
    rowMatches ⟨m, encodeN opc, 0xFFFFFF00#32, f⟩ w = true ↔ encodeB opc (fieldLow w) = w := by
  rw [rowMatches_formatB _ _ _ _ (by rw [encodeN_toNat]; omega), decide_eq_true_iff, ← BitVec.toNat_inj, encodeN_toNat,
    encodeB_toNat, fieldLow_toNat]
  omega

theorem rowMatches_iff_encodeH :
    rowMatches ⟨m, encodeN opc, 0xFFFF0000#32, f⟩ w = true ↔ encodeH opc (fieldLow w) (fieldHi w) = w := by
  rw [rowMatches_formatH _ _ _ _ (by rw [encodeN_toNat]; omega), decide_eq_true_iff, ← BitVec.toNat_inj, encodeN_toNat,
    encodeH_toNat, fieldLow_toNat, fieldHi_toNat]
  omega

theorem rowMatches_iff_encodeR :
    rowMatches ⟨m, encodeN opc, 0xFF000000#32, f⟩ w = true ↔ encodeR opc (fieldStart w) (fieldLow w) = w := by
  rw [rowMatches_formatR _ _ _ _ (by rw [encodeN_toNat]; omega), decide_eq_true_iff, ← BitVec.toNat_inj, encodeN_toNat,
    encodeR_toNat, fieldStart_toNat, fieldLow_toNat]
  omega

end Rows

/-- A row of the map matches exactly the words that encode the command it builds from them. -/
theorem rowMatches_iff_encode_build {r : OpcodeRow} (hr : r ∈ opcodeMap) (w : Word) :
    rowMatches r w = true ↔ encode (r.build w) = w := by
  revert r
  simp only [opcodeMap, List.forall_mem_cons]
  exact ⟨rowMatches_iff_encodeN 0x01#8 _ _ w, rowMatches_iff_encodeB 0x02#8 _ _ w, rowMatches_iff_encodeN 0x03#8 _ _ w,
    rowMatches_iff_encodeH 0x04#8 _ _ w, rowMatches_iff_encodeR 0x10#8 _ _ w, rowMatches_iff_encodeR 0x11#8 _ _ w,
    rowMatches_iff_encodeB 0x20#8 _ _ w, rowMatches_iff_encodeN 0x21#8 _ _ w, rowMatches_iff_encodeB 0x22#8 _ _ w,
    rowMatches_iff_encodeN 0x23#8 _ _ w, rowMatches_iff_encodeB 0x30#8 _ _ w, rowMatches_iff_encodeN 0x31#8 _ _ w,
    nofun⟩

/-- Every command has a row, which builds the command from its word: the row's place in the map (R75). -/
theorem exists_row_build_encode (i : Instr) : ∃ r ∈ opcodeMap, r.build (encode i) = i := by
  cases i with
  | crcInit => exact ⟨_, List.mem_of_getElem? (i := 0) rfl, rfl⟩
  | crcByte b => exact ⟨_, List.mem_of_getElem? (i := 1) rfl, congrArg Instr.crcByte (fieldLow_encodeB _ b)⟩
  | crcRead => exact ⟨_, List.mem_of_getElem? (i := 2) rfl, rfl⟩
  | crcCheck lo hi =>
    exact ⟨_, List.mem_of_getElem? (i := 3) rfl,
      congrArg₂ Instr.crcCheck (fieldLow_encodeH _ lo hi) (fieldHi_encodeH _ lo hi)⟩
  | encRd start words =>
    exact ⟨_, List.mem_of_getElem? (i := 4) rfl,
      congrArg₂ Instr.encRd (fieldStart_encodeR _ start words) (fieldLow_encodeR _ start words)⟩
  | xchRd start words =>
    exact ⟨_, List.mem_of_getElem? (i := 5) rfl,
      congrArg₂ Instr.xchRd (fieldStart_encodeR _ start words) (fieldLow_encodeR _ start words)⟩
  | decByte b => exact ⟨_, List.mem_of_getElem? (i := 6) rfl, congrArg Instr.decByte (fieldLow_encodeB _ b)⟩
  | decAbort => exact ⟨_, List.mem_of_getElem? (i := 7) rfl, rfl⟩
  | decRdbuf i => exact ⟨_, List.mem_of_getElem? (i := 8) rfl, congrArg Instr.decRdbuf (fieldLow_encodeB _ i)⟩
  | decStatus => exact ⟨_, List.mem_of_getElem? (i := 9) rfl, rfl⟩
  | cfgSetaddr a => exact ⟨_, List.mem_of_getElem? (i := 10) rfl, congrArg Instr.cfgSetaddr (fieldLow_encodeB _ a)⟩
  | cfgGetaddr => exact ⟨_, List.mem_of_getElem? (i := 11) rfl, rfl⟩

/-- Decoding undoes encoding (R76). -/
@[simp] theorem decode_encode (i : Instr) : decode (encode i) = some i := by
  obtain ⟨r, hr, hbuild⟩ := exists_row_build_encode i
  exact decode_eq_some_iff.mpr ⟨r, hr, (rowMatches_iff_encode_build hr _).mpr (by rw [hbuild]), hbuild⟩

/-- Encoding undoes decoding, where the word decodes (R76, D2). -/
theorem encode_of_decode_eq_some {w : Word} {i : Instr} (h : decode w = some i) : encode i = w := by
  obtain ⟨r, hr, hrw, rfl⟩ := decode_eq_some_iff.mp h
  exact (rowMatches_iff_encode_build hr w).mp hrw

/-- Settles O1: every command decodes back; well-formedness is not needed, since it holds of every `Instr`. -/
theorem decodeOfEncodeIsTheCommand : Obligations.DecodeOfEncodeIsTheCommand := fun i _ => decode_encode i

/-- Settles O2: the row that matched a word gives its OPC and its zero bits back, and the row's fields the rest. -/
theorem encodeOfDecodeIsTheWord : Obligations.EncodeOfDecodeIsTheWord := fun _ _ => encode_of_decode_eq_some

/-- Settles O5: the words R83 spells out are the encodings of their commands. -/
theorem spelledWordsDecode : Obligations.SpelledWordsDecode :=
  ⟨decode_encode (.crcByte 0x01#8), decode_encode (.crcCheck 0xA4#8 0x08#8), decode_encode (.encRd 0x000A#16 0x01#8),
    decode_encode (.xchRd 0x0100#16 0x0A#8), decode_encode (.decByte 0x83#8), decode_encode (.cfgSetaddr 0x11#8)⟩

end Sys2Proof
end

section
/-! SUPPORT. Which words fault ILLEGAL (R77, R78): those with no row, by OPC and reserved bits. -/

namespace Sys2Proof.Machine

/-- A word that encodes no command answers a command fault and nothing else (R77). -/
theorem runWord_of_decode_eq_none {w : Word} (h : decode w = none) (s : State) :
    runWord w s = .next (illegalWord s) := by
  simp only [runWord, h]

/-- A word that does not decode faults ILLEGAL in every state (R77, R201). -/
theorem faultsIllegal_of_decode_eq_none {w : Word} (h : decode w = none) : FaultsIllegal w := by
  intro s rest hport
  rw [step_of_port_eq_command hport, runWord_of_decode_eq_none h]
  rfl

theorem decode_isSome_iff_exists_row (w : Word) :
    (decode w).isSome = true ↔ ∃ r ∈ opcodeMap, rowMatches r w = true := by
  simp only [Option.isSome_iff_exists, decode_eq_some_iff]
  exact ⟨fun ⟨_, r, hr, hrw, _⟩ => ⟨r, hr, hrw⟩, fun ⟨r, hr, hrw⟩ => ⟨_, r, hr, hrw, rfl⟩⟩

/-- The words that decode: an assigned OPC, with the reserved bits of its format all 0 (R71-R75). -/
theorem decode_isSome_iff (w : Word) : (decode w).isSome = true ↔
    (w.toNat / 2 ^ 24 ∈ [0x01, 0x03, 0x21, 0x23, 0x31] ∧ w.toNat % 2 ^ 24 = 0) ∨
    (w.toNat / 2 ^ 24 ∈ [0x02, 0x20, 0x22, 0x30] ∧ w.toNat / 2 ^ 8 % 2 ^ 16 = 0) ∨
    (w.toNat / 2 ^ 24 ∈ [0x04] ∧ w.toNat / 2 ^ 16 % 2 ^ 8 = 0) ∨
    w.toNat / 2 ^ 24 ∈ [0x10, 0x11] := by
  simp only [decode_isSome_iff_exists_row, opcodeMap, List.mem_cons, List.not_mem_nil, or_false, or_and_right,
    exists_or, exists_eq_left, rowMatches_formatN, rowMatches_formatB, rowMatches_formatH, rowMatches_formatR,
    decide_eq_true_iff, BitVec.toNat_ofNat, Nat.reducePow, Nat.reduceMod, Nat.reduceDiv, or_assoc]
  constructor
  · rintro (h | h | h | h | h | h | h | h | h | h | h | h) <;> omega
  · rintro (h | h | h | h | h | h | h | h | h | h | h | h) <;> omega

/-- Settles O4: the words that decode are those with an assigned OPC and no reserved bit set, and a word that does not
decode faults. -/
theorem reservedAndUnassignedWordsFault : Obligations.ReservedAndUnassignedWordsFault := by
  rintro w _ rfl
  constructor
  · intro h
    refine ⟨faultsIllegal_of_decode_eq_none ?_, rfl⟩
    rw [← Option.not_isSome_iff_eq_none, decode_isSome_iff]
    simp only [List.mem_cons, List.not_mem_nil, or_false] at *
    rcases h with hopc | ⟨hopc, hres⟩ | ⟨hopc, hres⟩ | ⟨hopc, hres⟩ <;> omega
  · intro hopc hN hB hH
    have hformat : w.toNat / 2 ^ 24 ∈ [0x01, 0x03, 0x21, 0x23, 0x31] ∨ w.toNat / 2 ^ 24 ∈ [0x02, 0x20, 0x22, 0x30] ∨
        w.toNat / 2 ^ 24 ∈ [0x04] ∨ w.toNat / 2 ^ 24 ∈ [0x10, 0x11] := by
      simp only [List.mem_cons, List.not_mem_nil, or_false] at hopc ⊢
      omega
    rw [decode_isSome_iff]
    rcases hformat with h | h | h | h
    · exact .inl ⟨h, hN h⟩
    · exact .inr (.inl ⟨h, hB h⟩)
    · exact .inr (.inr (.inl ⟨h, hH h⟩))
    · exact .inr (.inr (.inr h))

end Sys2Proof.Machine
end

section
/-! SUPPORT. Source commands and commands (R83): an operand list within its bounds is a list of fields' values, and the
assembler reads exactly the source forms of commands. -/

namespace Sys2Proof.Machine

/-- The facts of R83 about one command's source form hold of every command. -/
theorem sourceForm (i : Instr) : Laws.SourceForm.Statement i := by
  cases i with
  | crcInit => exact Laws.SourceForm.crcInit
  | crcByte b => exact Laws.SourceForm.crcByte b
  | crcRead => exact Laws.SourceForm.crcRead
  | crcCheck lo hi => exact Laws.SourceForm.crcCheck lo hi
  | encRd start words => exact Laws.SourceForm.encRd start words
  | xchRd start words => exact Laws.SourceForm.xchRd start words
  | decByte b => exact Laws.SourceForm.decByte b
  | decAbort => exact Laws.SourceForm.decAbort
  | decRdbuf i => exact Laws.SourceForm.decRdbuf i
  | decStatus => exact Laws.SourceForm.decStatus
  | cfgSetaddr a => exact Laws.SourceForm.cfgSetaddr a
  | cfgGetaddr => exact Laws.SourceForm.cfgGetaddr

/-- The assembler reads a command's source form back as the command (R83). -/
@[simp] theorem assembleCommand_toSource (i : Instr) : assembleCommand i.toSource = some i := (sourceForm i).2

/-- Every command is well formed: its operands have the width of their fields (R83). -/
@[simp] theorem wellFormed_toSource (i : Instr) : i.toSource.wellFormed = true := (sourceForm i).1

theorem byteOperand_eq_some_iff {n : Nat} {b : Byte} : byteOperand n = some b ↔ n = b.toNat := by
  constructor
  · intro h
    obtain ⟨hlt, hb⟩ := Option.ite_none_right_eq_some.mp h
    cases hb
    exact (Nat.mod_eq_of_lt hlt).symm
  · rintro rfl
    exact Laws.byteOperand_toNat b

theorem halfOperand_eq_some_iff {n : Nat} {v : Half} : halfOperand n = some v ↔ n = v.toNat := by
  constructor
  · intro h
    obtain ⟨hlt, hv⟩ := Option.ite_none_right_eq_some.mp h
    cases hv
    exact (Nat.mod_eq_of_lt hlt).symm
  · rintro rfl
    exact Laws.halfOperand_toNat v

/-- What assembles is a command's source form (R83). -/
theorem eq_toSource_of_assembleCommand {c : SourceCommand} {i : Instr} (h : assembleCommand c = some i) :
    c = i.toSource := by
  obtain ⟨m, ops⟩ := c
  unfold assembleCommand at h
  split at h
  case h_1 hm ho | h_3 hm ho | h_8 hm ho | h_10 hm ho | h_12 hm ho =>
    cases hm; cases ho; cases h; rfl
  case h_2 hm ho | h_7 hm ho | h_9 hm ho | h_11 hm ho =>
    obtain ⟨b, hb, rfl⟩ := Option.map_eq_some_iff.mp h
    cases hm; cases ho; cases byteOperand_eq_some_iff.mp hb; rfl
  case h_4 hm ho =>
    obtain ⟨lo, hlo, h⟩ := Option.bind_eq_some_iff.mp h
    obtain ⟨hi, hhi, rfl⟩ := Option.map_eq_some_iff.mp h
    cases hm; cases ho; cases byteOperand_eq_some_iff.mp hlo; cases byteOperand_eq_some_iff.mp hhi; rfl
  case h_5 hm ho | h_6 hm ho =>
    obtain ⟨start, hstart, h⟩ := Option.bind_eq_some_iff.mp h
    obtain ⟨words, hwords, rfl⟩ := Option.map_eq_some_iff.mp h
    cases hm; cases ho; cases halfOperand_eq_some_iff.mp hstart; cases byteOperand_eq_some_iff.mp hwords; rfl
  case h_13 => cases h

@[simp] theorem withinBounds_nil {xs : List Nat} : withinBounds xs [] = true ↔ xs = [] := by
  cases xs <;> simp [withinBounds]

/-- A number below a field's bound is the value of a field. -/
theorem withinBounds_cons {n : Nat} {xs bs : List Nat} :
    withinBounds xs (2 ^ n :: bs) = true ↔
      ∃ (v : BitVec n) (ys : List Nat), xs = v.toNat :: ys ∧ withinBounds ys bs = true := by
  constructor
  · intro h
    cases xs with
    | nil => cases h
    | cons x ys =>
      obtain ⟨hx, hys⟩ := Bool.and_eq_true_iff.mp h
      exact ⟨BitVec.ofNatLT x (of_decide_eq_true hx), ys, rfl, hys⟩
  · rintro ⟨v, ys, rfl, hys⟩
    exact Bool.and_eq_true_iff.mpr ⟨decide_eq_true v.isLt, hys⟩

theorem withinBounds_singleton {n : Nat} {xs : List Nat} (h : withinBounds xs [2 ^ n] = true) :
    ∃ v : BitVec n, xs = [v.toNat] := by
  obtain ⟨v, ys, rfl, hys⟩ := withinBounds_cons.mp h
  exact ⟨v, by rw [withinBounds_nil.mp hys]⟩

theorem withinBounds_pair {n k : Nat} {xs : List Nat} (h : withinBounds xs [2 ^ n, 2 ^ k] = true) :
    ∃ (v : BitVec n) (w : BitVec k), xs = [v.toNat, w.toNat] := by
  obtain ⟨v, ys, rfl, hys⟩ := withinBounds_cons.mp h
  obtain ⟨w, rfl⟩ := withinBounds_singleton hys
  exact ⟨v, w, rfl⟩

/-- A source command within its operands' bounds is the source form of a command (R83). -/
theorem exists_toSource_of_wellFormed {c : SourceCommand} (h : c.wellFormed = true) : ∃ i : Instr, c = i.toSource := by
  obtain ⟨m, ops⟩ := c
  have hops : withinBounds ops m.operandBounds = true := h
  cases m with
  | crcInit => exact ⟨.crcInit, by rw [withinBounds_nil.mp hops]; rfl⟩
  | crcByte => obtain ⟨b, rfl⟩ := withinBounds_singleton (n := 8) hops; exact ⟨.crcByte b, rfl⟩
  | crcRead => exact ⟨.crcRead, by rw [withinBounds_nil.mp hops]; rfl⟩
  | crcCheck => obtain ⟨lo, hi, rfl⟩ := withinBounds_pair (n := 8) (k := 8) hops; exact ⟨.crcCheck lo hi, rfl⟩
  | encRd => obtain ⟨start, words, rfl⟩ := withinBounds_pair (n := 16) (k := 8) hops; exact ⟨.encRd start words, rfl⟩
  | xchRd => obtain ⟨start, words, rfl⟩ := withinBounds_pair (n := 16) (k := 8) hops; exact ⟨.xchRd start words, rfl⟩
  | decByte => obtain ⟨b, rfl⟩ := withinBounds_singleton (n := 8) hops; exact ⟨.decByte b, rfl⟩
  | decAbort => exact ⟨.decAbort, by rw [withinBounds_nil.mp hops]; rfl⟩
  | decRdbuf => obtain ⟨i, rfl⟩ := withinBounds_singleton (n := 8) hops; exact ⟨.decRdbuf i, rfl⟩
  | decStatus => exact ⟨.decStatus, by rw [withinBounds_nil.mp hops]; rfl⟩
  | cfgSetaddr => obtain ⟨a, rfl⟩ := withinBounds_singleton (n := 8) hops; exact ⟨.cfgSetaddr a, rfl⟩
  | cfgGetaddr => exact ⟨.cfgGetaddr, by rw [withinBounds_nil.mp hops]; rfl⟩

/-- Settles O6: what assembles, what is within the bounds and what is the source form of a command are the same. -/
theorem assemblyAcceptsEncodableOperands : Obligations.AssemblyAcceptsEncodableOperands := by
  refine ⟨fun c => Bool.eq_iff_iff.mpr ⟨fun h => ?_, fun h => ?_⟩, fun c i => eq_toSource_of_assembleCommand⟩
  · obtain ⟨i, hi⟩ := Option.isSome_iff_exists.mp h
    rw [eq_toSource_of_assembleCommand hi, wellFormed_toSource]
  · obtain ⟨i, rfl⟩ := exists_toSource_of_wellFormed h
    rw [assembleCommand_toSource, Option.isSome_some]

end Sys2Proof.Machine
end

section
/-! SUPPORT. CRC.SEQ (R84): each CRC.BYTE runs on from the CRC that the command before it left and reported. -/

namespace Sys2Proof.Machine

/-- A run of CRC.BYTE, after a CRC command that left and reported a CRC (R107). -/
theorem execAll_map_crcByte (s : State) (bs : List Byte) (c : Half) :
    execAll (bs.map .crcByte) ({ s with crc := c }.result .ok (zextHalf c)) =
      .next ({ s with crc := bs.foldl crcUpdate c }.result .ok (zextHalf (bs.foldl crcUpdate c))) := by
  induction bs generalizing c with
  | nil => rfl
  | cons b bs ih => exact (execAll_cons_next rfl).trans (ih (crcUpdate c b))

/-- Settles O18: CRC.INIT puts the seed, and the bytes run on from it. -/
theorem crcSequenceComputesCrc16 : Obligations.CrcSequenceComputesCrc16 := fun s bs =>
  (execAll_cons_next rfl).trans (execAll_map_crcByte s bs Config.crcSeed)

end Sys2Proof.Machine
end

section
/-! SUPPORT. The bytes of the request frame (R79, R130). -/

namespace Sys2Proof.Machine

/-- Settles O20: the frame's definition gives the six header bytes and the CRC bytes of R102 after them. -/
theorem requestFrameLayout : Obligations.RequestFrameLayout := by
  rintro a w start _ rfl
  have hheader : requestHeader a start w =
      [a, 0x03#8, start.extractLsb' 8 8, start.extractLsb' 0 8, 0x00#8, w] := rfl
  rw [← hheader, buildReadRequest, crcBytes, lo8, hi8]

end Sys2Proof.Machine
end

section
/-! SUPPORT. The table form of the byte update (R103, R104). -/

namespace Sys2Proof.Machine

/-- Every entry of the table as the spec lists it, against the bit step (R103). -/
theorem crcTable_eq_map_crcBits : crcTable = (List.range 256).map fun i => crcBits 8 (BitVec.ofNat 16 i) := by
  decide +kernel

theorem crcTable_length : crcTable.length = 256 := by
  rw [crcTable_eq_map_crcBits, List.length_map, List.length_range]

/-- A look-up in the table eight-steps its index (R103). -/
theorem crcTable_getElem? {i : Nat} (h : i < 256) : crcTable[i]? = some (crcBits 8 (BitVec.ofNat 16 i)) := by
  rw [crcTable_eq_map_crcBits, List.getElem?_map, List.getElem?_range h, Option.map_some]

/-- The table form with its look-up evaluated (R103). -/
theorem crcUpdateTab_eq (c : Half) (b : Byte) :
    crcUpdateTab c b = (c >>> 8) ^^^ crcBits 8 ((c ^^^ zext16 b) &&& 0xFF#16) := by
  have hindex : ((c ^^^ zext16 b) &&& 0xFF#16).toNat < 256 := by
    rw [BitVec.toNat_and]
    exact Nat.lt_succ_of_le Nat.and_le_right
  rw [crcUpdateTab, List.getD_eq_getElem?_getD, crcTable_getElem? hindex, Option.getD_some, BitVec.ofNat_toNat,
    BitVec.setWidth_eq]

theorem and_FF_eq_zext16_lo8 (c : Half) : c &&& 0xFF#16 = zext16 (lo8 c) := by
  apply BitVec.eq_of_toNat_eq
  rw [zext16_toNat, lo8_toNat, BitVec.toNat_and]
  exact Nat.and_two_pow_sub_one_eq_mod c.toNat 8

theorem ushiftRight_eight_eq_zext16_hi8 (c : Half) : c >>> 8 = zext16 (hi8 c) := by
  apply BitVec.eq_of_toNat_eq
  rw [zext16_toNat, hi8_toNat, BitVec.toNat_ushiftRight, Nat.shiftRight_eq_div_pow]

/-- Eight bit steps move the high byte down and XOR the eight-stepped low byte into it (R104). -/
theorem crcBits_eight (c : Half) : crcBits 8 c = (c >>> 8) ^^^ crcBits 8 (c &&& 0xFF#16) := by
  have hhigh : crcBits 8 (c ^^^ zext16 (lo8 c)) = zext16 (hi8 c) := crcUpdate_lo8 c
  rw [ushiftRight_eight_eq_zext16_hi8, and_FF_eq_zext16_lo8, ← hhigh, crcBits_xor, BitVec.xor_assoc, BitVec.xor_self,
    BitVec.xor_zero]

/-- A byte reaches only the low half of the register. -/
theorem xor_zext16_ushiftRight (c : Half) (b : Byte) : (c ^^^ zext16 b) >>> 8 = c >>> 8 := by
  have hb : zext16 b >>> 8 = 0#16 := by
    apply BitVec.eq_of_toNat_eq
    rw [BitVec.toNat_ushiftRight, zext16_toNat, Nat.shiftRight_eq_div_pow]
    exact Nat.div_eq_of_lt b.isLt
  rw [BitVec.ushiftRight_xor_distrib, hb, BitVec.xor_zero]

/-- The two forms of the byte update are equal (R104). -/
theorem crcUpdateTab_eq_crcUpdate (c : Half) (b : Byte) : crcUpdateTab c b = crcUpdate c b := by
  rw [crcUpdateTab_eq, crcUpdate, crcBits_eight (c ^^^ zext16 b), xor_zext16_ushiftRight]

/-- Settles O12: the table is compared entry by entry with the bit step, and the eight steps of the register's two bytes
are taken apart by linearity. -/
theorem tableFormEqualsSerialForm : Obligations.TableFormEqualsSerialForm :=
  ⟨crcTable_length, fun _ => crcTable_getElem?, crcUpdateTab_eq, crcUpdateTab_eq_crcUpdate⟩

end Sys2Proof.Machine
end

section
/-! SUPPORT. The byte update is injective in the register, so the residue 0 is reached from one CRC alone (R105). -/

namespace Sys2Proof.Machine

/-- Only 0 steps to 0: a low bit that was shifted out stands in the top bit of the result (R100). -/
theorem eq_zero_of_crcBit_eq_zero {c : Half} (h : crcBit c = 0#16) : c = 0#16 := by
  cases hlow : c.getLsbD 0 with
  | true =>
    have htop : (crcBit c).getLsbD 15 = true := by
      rw [crcBit, if_pos hlow, BitVec.getLsbD_xor, BitVec.getLsbD_ushiftRight, BitVec.getLsbD_of_ge c _ (by omega)]
      decide
    rw [h] at htop
    cases htop
  | false =>
    have heven : c.toNat % 2 = 0 := by simpa [BitVec.getLsbD, Nat.testBit_zero] using hlow
    have hhalf := crcBit_of_even heven
    rw [h, BitVec.toNat_ofNat] at hhalf
    apply BitVec.eq_of_toNat_eq
    rw [BitVec.toNat_ofNat]
    omega

theorem eq_zero_of_crcBits_eq_zero {n : Nat} {c : Half} (h : crcBits n c = 0#16) : c = 0#16 := by
  induction n generalizing c with
  | zero => exact h
  | succ n ih => exact eq_zero_of_crcBit_eq_zero (ih h)

/-- Advancing by one byte keeps different registers different. -/
theorem crcUpdate_left_inj {c d : Half} {b : Byte} : crcUpdate c b = crcUpdate d b ↔ c = d := by
  refine ⟨fun h => ?_, fun h => h ▸ rfl⟩
  have hxor : crcBits 8 ((c ^^^ zext16 b) ^^^ (d ^^^ zext16 b)) = 0#16 := by
    rw [crcBits_xor, ← crcUpdate, ← crcUpdate, h, BitVec.xor_self]
  exact (BitVec.xor_left_inj _).mp (BitVec.xor_eq_zero_iff.mp (eq_zero_of_crcBits_eq_zero hxor))

@[simp] theorem lo8_hiLo (hi lo : Byte) : lo8 (hiLo hi lo) = lo := by
  apply BitVec.eq_of_toNat_eq
  rw [lo8_toNat, hiLo_toNat]
  omega

@[simp] theorem hi8_hiLo (hi lo : Byte) : hi8 (hiLo hi lo) = hi := by
  apply BitVec.eq_of_toNat_eq
  rw [hi8_toNat, hiLo_toNat]
  omega

/-- The register whose bytes these are advances to 0 over them, low byte first (R105). -/
theorem crcUpdate_crcUpdate_hiLo (t0 t1 : Byte) : crcUpdate (crcUpdate (hiLo t1 t0) t0) t1 = 0#16 := by
  have hlow := crcUpdate_lo8 (hiLo t1 t0)
  rw [lo8_hiLo, hi8_hiLo] at hlow
  rw [hlow, crcUpdate_zext16]

/-- Two bytes advance a register to 0 exactly when they are its low and its high byte (R105). -/
theorem crcUpdate_crcUpdate_eq_zero_iff {c : Half} {t0 t1 : Byte} :
    crcUpdate (crcUpdate c t0) t1 = 0#16 ↔ c = hiLo t1 t0 := by
  rw [← crcUpdate_crcUpdate_hiLo t0 t1, crcUpdate_left_inj, crcUpdate_left_inj]

theorem crcVerify_eq_true {bs : List Byte} {t0 t1 : Byte} : crcVerify bs t0 t1 = true ↔ crc16 bs = hiLo t1 t0 :=
  beq_iff_eq

/-- Settles O13: the CRC over the two trailing bytes runs on from the sequence's own CRC, and it is 0 exactly when they
are that CRC's bytes. -/
theorem crcResidueIsZeroExactlyOnVerify : Obligations.CrcResidueIsZeroExactlyOnVerify := by
  refine ⟨crc16_append_crcBytes, fun bs t0 t1 => ?_⟩
  rw [crc16_append, crcVerify_eq_true]
  exact crcUpdate_crcUpdate_eq_zero_iff

end Sys2Proof.Machine
end

section
/-! SUPPORT. The CRC function and the CRC unit's commands, in the spec's literals (R100 to R102, R106 to R109). -/

namespace Sys2Proof.Machine

/-- A register is `hi:lo` exactly when it is that number (R12). -/
theorem eq_hiLo_iff {c : Half} {hi lo : Byte} : c = hiLo hi lo ↔ c.toNat = hi.toNat * 256 + lo.toNat := by
  rw [← BitVec.toNat_inj, hiLo_toNat]

/-- Settles O11: each clause is the definition in the spec's literals; the last compares the CRC as a number. -/
theorem crcFunctionIsReflectedA001 : Obligations.CrcFunctionIsReflectedA001 :=
  ⟨fun _ => rfl, fun _ _ => rfl, crc16_nil, crc16_concat, fun _ => rfl,
    fun _ _ _ => crcVerify_eq_true.trans eq_hiLo_iff⟩

/-- Settles O14: CRC.READ runs on the state that CRC.INIT left. -/
theorem crcInitSetsSeed : Obligations.CrcInitSetsSeed :=
  ⟨fun _ => rfl, fun _ => ⟨_, (execAll_cons_next rfl).trans (execAll_cons_next rfl), rfl⟩, decode_encode .crcInit,
    fun w hopc hres => ((reservedAndUnassignedWordsFault w 0x01 hopc.symm).1 (.inr (.inl ⟨by decide, hres⟩))).1⟩

/-- Settles O15: the meaning is the definition's, its words are those of format B. -/
theorem crcByteAdvancesCrc : Obligations.CrcByteAdvancesCrc :=
  ⟨fun _ _ => rfl, fun b => decode_encode (.crcByte b), fun w hopc hres =>
    ((reservedAndUnassignedWordsFault w 0x02 hopc.symm).1 (.inr (.inr (.inl ⟨by decide, hres⟩)))).1⟩

/-- Settles O16: the meaning is the definition's, its one word is that of format N. -/
theorem crcReadReturnsCrc : Obligations.CrcReadReturnsCrc :=
  ⟨fun _ => rfl, decode_encode .crcRead,
    fun w hopc hres => ((reservedAndUnassignedWordsFault w 0x03 hopc.symm).1 (.inr (.inl ⟨by decide, hres⟩))).1⟩

/-- CRC.CHECK answers whether the accumulator is `hi:lo`, and changes nothing but the result (R109). -/
theorem exec_crcCheck (lo hi : Byte) (s : State) :
    exec (.crcCheck lo hi) s = .next (s.result .ok (if s.crc = hiLo hi lo then 1#32 else 0#32)) := rfl

/-- CRC.CHECK after CRC.SEQ compares the sequence's CRC (R109, R235). -/
theorem execAll_crcSeq_crcCheck (s : State) (bs : List Byte) (t0 t1 : Byte) :
    ∃ t, execAll (crcSeq bs ++ [.crcCheck t0 t1]) s = .next t ∧ t.rval = if crcVerify bs t0 t1 then 1#32 else 0#32 := by
  have hseq := execAll_append_next (js := [.crcCheck t0 t1]) (crcSequenceComputesCrc16 s bs)
  refine ⟨_, hseq.trans (execAll_cons_next (exec_crcCheck t0 t1 _)), ?_⟩
  simp only [crcVerify_eq_true, State.result_rval]

/-- Settles O17: a match and a mismatch are the two branches of the comparison. -/
theorem crcCheckComparesCrc : Obligations.CrcCheckComparesCrc := by
  refine ⟨fun s lo hi hmatch => ?_, fun s lo hi hmismatch => ?_, fun lo hi => decode_encode (.crcCheck lo hi),
    fun w hopc hres => ?_, execAll_crcSeq_crcCheck⟩
  · rw [exec_crcCheck, if_pos (eq_hiLo_iff.mpr hmatch)]
    rfl
  · rw [exec_crcCheck, if_neg (mt eq_hiLo_iff.mp hmismatch)]
    rfl
  · exact ((reservedAndUnassignedWordsFault w 0x04 hopc.symm).1 (.inr (.inr (.inr ⟨by decide, hres⟩)))).1

end Sys2Proof.Machine
end

section
/-! SUPPORT. The frame encoder's commands, one equation per outcome (R131 to R135). -/

namespace Sys2Proof.Machine

/-- Bytes 6 and 7 of a request frame are the CRC of its header (R130, R135). -/
theorem frameCrc_buildReadRequest (a : Byte) (start : Half) (words : Byte) :
    frameCrc (buildReadRequest a start words) = crc16 (requestHeader a start words) :=
  hiLo_hi8_lo8 _

/-- Sending a request appends its frame to TX and answers OK with the CRC of the frame's header (R132). -/
theorem sendRequest_eq (s : State) (start : Half) (words : Byte) :
    sendRequest s start words =
      (s.emit (buildReadRequest s.devaddr start words)).result .ok
        (zextHalf (crc16 (requestHeader s.devaddr start words))) := by
  rw [sendRequest, frameCrc_buildReadRequest]

/-- Twice a word count in the byte register EXPCNT (R134). -/
theorem two_mul_eq_ofNat (words : Byte) : 2#8 * words = BitVec.ofNat 8 (2 * words.toNat) := by
  rw [BitVec.ofNat_mul, BitVec.ofNat_toNat, BitVec.setWidth_eq]

section Commands

variable {start : Half} {words : Byte} {s : State}

theorem exec_encRd_of_legal (h : reqArgsOk start words = true) :
    exec (.encRd start words) s = .next (sendRequest s start words) :=
  if_pos h

theorem exec_encRd_of_illegal (h : reqArgsOk start words = false) :
    exec (.encRd start words) s = .next (s.fail .arg) :=
  if_neg (ne_true_of_eq_false h)

/-- While busy the arguments are not looked at (R133, R208). -/
theorem exec_xchRd_of_busy (h : s.busy = true) : exec (.xchRd start words) s = .next (s.fail .busy) :=
  if_pos h

/-- On a quiescent decoder the arguments alone decide (R133). -/
theorem exec_xchRd_of_quiescent (h : s.busy = false) :
    exec (.xchRd start words) s =
      if reqArgsOk start words then .next ((sendRequest s start words).arm words) else .next (s.fail .arg) :=
  if_neg (ne_true_of_eq_false h)

theorem exec_xchRd_of_legal (hquiet : s.busy = false) (h : reqArgsOk start words = true) :
    exec (.xchRd start words) s = .next ((sendRequest s start words).arm words) :=
  (exec_xchRd_of_quiescent hquiet).trans (if_pos h)

theorem exec_xchRd_of_illegal (hquiet : s.busy = false) (h : reqArgsOk start words = false) :
    exec (.xchRd start words) s = .next (s.fail .arg) :=
  (exec_xchRd_of_quiescent hquiet).trans (if_neg (ne_true_of_eq_false h))

end Commands

/-- Settles O21: the frame is its header followed by the header's CRC bytes, which leaves residue 0, and both commands
send it; arming leaves TX. -/
theorem requestFrameProperties : Obligations.RequestFrameProperties := by
  rintro a w start - - hargs _ rfl
  obtain ⟨hlen, hcrc, -⟩ := buildReadRequest_frame a start w
  refine ⟨hlen, rfl, hcrc, fun s t hs ht hquiet => ?_⟩
  refine ⟨_, _, exec_encRd_of_legal hargs, exec_xchRd_of_legal hquiet hargs, ?_, ?_⟩
  · rw [← hs]
    rfl
  · rw [← ht]
    rfl

/-- Settles O22: legal arguments send the request, all others fault, and the command's words are those of format R. -/
theorem encRdEmitsRequest : Obligations.EncRdEmitsRequest := by
  refine ⟨fun s start words hstart hlo hhi => ?_, fun s start words hbad => ?_,
    fun start words => decode_encode (.encRd start words)⟩
  · rw [exec_encRd_of_legal (reqArgsOk_eq_true.mpr ⟨hstart, hlo, hhi⟩), sendRequest_eq]
    rfl
  · exact exec_encRd_of_illegal (reqArgsOk_eq_false.mpr hbad)

/-- Settles O23: busy comes before the arguments, and a legal request on a quiescent decoder is sent and armed for twice
its word count. -/
theorem xchRdOpensExchange : Obligations.XchRdOpensExchange := by
  refine ⟨fun s start words hquiet hstart hlo hhi => ?_, fun s start words hbusy => exec_xchRd_of_busy hbusy,
    fun s start words hquiet hbad => ?_, fun start words => decode_encode (.xchRd start words)⟩
  · rw [exec_xchRd_of_legal hquiet (reqArgsOk_eq_true.mpr ⟨hstart, hlo, hhi⟩), sendRequest_eq, ← two_mul_eq_ofNat]
    rfl
  · exact exec_xchRd_of_illegal hquiet (reqArgsOk_eq_false.mpr hbad)

end Sys2Proof.Machine
end

section
/-! SUPPORT. DEC.BYTE in each state of the decoder, in the spec's literals (R151 to R160). -/

namespace Sys2Proof.Machine

/-- Settles O24: the result is put on the state that the byte left, and the rest of the elements named are outside what
a received byte writes. -/
theorem decByteReturnsStatusAfterStep : Obligations.DecByteReturnsStatusAfterStep := by
  refine ⟨fun s t b h => ?_, fun b => decode_encode (.decByte b), fun w hopc hres => ?_⟩
  · obtain ⟨u, hrec, rfl⟩ := execDecByte_cases h
    have hframe := receive_frame hrec
    exact ⟨rfl, rfl, hframe.port, hframe.tx, hframe.crc, hframe.devaddr, hframe.expcnt⟩
  · exact ((reservedAndUnassignedWordsFault w 0x20 hopc.symm).1 (.inr (.inr (.inl ⟨by decide, hres⟩)))).1

/-- Settles O25: the two states latch their byte and check nothing. -/
theorem decByteLatchesHeader : Obligations.DecByteLatchesHeader := by
  refine ⟨?_, ?_⟩
  · rintro s _ b hd rfl
    exact exec_decByte_of_receive_ok (receive_of_awAddr hd)
  · rintro s _ b hd rfl
    exact exec_decByte_of_receive_ok (receive_of_awFunc hd)

/-- The legal byte lengths by the illegal ones (R155). -/
theorem byteLenOk_iff_not {n : Byte} : byteLenOk n = true ↔ ¬(n.toNat = 0 ∨ 0xFA < n.toNat) := by
  rw [byteLenOk_eq_true]
  omega

/-- The header checks as one chain, with the illegal byte lengths spelled out (R155). -/
theorem checkHeader_eq (s : State) : checkHeader s =
    if s.hdr0 ≠ s.devaddr then s.frameError .addrMismatch
    else if s.hdr1 = 0x83#8 then { s with dstate := .awXCrcLo }
    else if s.hdr1 ≠ 0x03#8 then s.frameError .badFunc
    else if s.hdr2.toNat < 0x01 ∨ 0xFA < s.hdr2.toNat then s.frameError .frameSize
    else { s with pcnt := 0#8, dstate := .awPay } := by
  simp only [checkHeader, byteLenOk_iff_not, ite_not, Nat.lt_one_iff]
  rfl

/-- Settles O26: the checks run on the header that the byte completes. -/
theorem decByteChecksHeader : Obligations.DecByteChecksHeader := by
  rintro s _ _ b hd rfl rfl
  have hrec := receive_of_awB2 (b := b) hd
  rw [checkHeader_eq] at hrec
  exact exec_decByte_of_receive_ok hrec

/-- Settles O27: PBUF changes by the one write, PCNT does not wrap, and the invariants bound it by the length. -/
theorem decByteStoresPayload : Obligations.DecByteStoresPayload := by
  refine ⟨?_, fun s hs hd => ?_⟩
  · rintro s t b hd hle ht
    have hin : s.pcnt.toNat < Config.pbufSize := Nat.lt_succ_of_le hle
    have hsucc : s.pcnt + 1#8 = BitVec.ofNat 8 (s.pcnt.toNat + 1) := by
      rw [← toNat_add_one_of_lt_pbufSize hin, BitVec.ofNat_toNat, BitVec.setWidth_eq]
    have hlast : s.pcnt + 1#8 = s.hdr2 ↔ s.pcnt.toNat + 1 = s.hdr2.toNat := by
      rw [← toNat_add_one_of_lt_pbufSize hin, BitVec.toNat_inj]
    have hreceived : payloadReceived b s = t := by
      rw [ht]
      simp [payloadReceived, countPayload, State.advanceDcrc, hsucc, ← hlast, hd]
    have hrec : receive b s = .ok t := (receive_of_awPay hd).trans (rxPay_eq_ok.mpr ⟨hin, hreceived.symm⟩)
    refine ⟨exec_decByte_of_receive_ok hrec, ?_, fun i hi => ?_⟩ <;> rw [ht]
    · exact s.pbuf.read_write_same _ b
    · exact s.pbuf.read_write_other b hi
  · obtain ⟨-, hmax, hlt⟩ := hs.inPayload hd
    exact ⟨hlt, hmax⟩

/-- The CRC comparison of R158 and R160, as the spec's numbers. -/
theorem hiLo_ne_iff {c : Half} {hi lo : Byte} : hiLo hi lo ≠ c ↔ hi.toNat * 256 + lo.toNat ≠ c.toNat := by
  rw [ne_comm, Ne, eq_hiLo_iff, ← Ne, ne_comm]

/-- Settles O28: the last byte's checks stand in the order of the rule. -/
theorem decByteChecksCrcThenLength : Obligations.DecByteChecksCrcThenLength := by
  refine ⟨?_, ?_⟩
  · rintro s _ b hd rfl
    exact exec_decByte_of_receive_ok (receive_of_awCrcLo hd)
  · rintro s _ b hd rfl
    have hrec := receive_of_awCrcHi (b := b) hd
    simp only [rxCrcHi, hiLo_ne_iff] at hrec
    exact exec_decByte_of_receive_ok hrec

/-- Settles O29: the exception code is kept in the one branch where the CRC is good. -/
theorem decByteEndsExceptionResponse : Obligations.DecByteEndsExceptionResponse := by
  refine ⟨?_, ?_⟩
  · rintro s _ b hd rfl
    exact exec_decByte_of_receive_ok (receive_of_awXCrcLo hd)
  · rintro s _ b hd rfl
    have hrec := receive_of_awXCrcHi (b := b) hd
    simp only [rxXCrcHi, hiLo_ne_iff] at hrec
    exact exec_decByte_of_receive_ok hrec

end Sys2Proof.Machine
end

section
/-! SUPPORT. The decoder's other commands (R163 to R166), and the error record that only three of the host's acts end
(R212). -/

namespace Sys2Proof.Machine

/-- With the decoder's registers at their reset values STATUS is 0 (R38, R164). -/
theorem status_clearDecoder (s : State) : s.clearDecoder.status = 0#32 := by
  unfold State.status State.busy
  simp only [State.clearDecoder_dstate, State.clearDecoder_errcls, State.clearDecoder_excode, State.clearDecoder_pcnt,
    State.clearDecoder_stray]
  decide

/-- Settles O31: the update is the rule's, and STATUS does not see the result. -/
theorem decAbortClearsDecoder : Obligations.DecAbortClearsDecoder := by
  refine ⟨?_, decode_encode .decAbort, fun w hopc hres => ?_⟩
  · rintro s _ rfl
    exact ⟨rfl, status_clearDecoder s⟩
  · exact ((reservedAndUnassignedWordsFault w 0x21 hopc.symm).1 (.inr (.inl ⟨by decide, hres⟩))).1

theorem exec_decRdbuf_of_not_done {i : Byte} {s : State} (hd : s.dstate ≠ .done) :
    exec (.decRdbuf i) s = .next (s.fail .notReady) :=
  if_pos hd

theorem exec_decRdbuf_of_pcnt_le {i : Byte} {s : State} (hd : s.dstate = .done) (hle : s.pcnt.toNat ≤ i.toNat) :
    exec (.decRdbuf i) s = .next (s.fail .arg) :=
  (if_neg (not_not.mpr hd)).trans (if_pos hle)

/-- Settles O32: one clause for each outcome of the command, and in DONE the invariants keep PCNT at most 250. -/
theorem decRdbufReturnsPayloadByte : Obligations.DecRdbufReturnsPayloadByte := by
  have hpcnt : ∀ s : State, Inv s → s.dstate = .done → s.pcnt.toNat ≤ 250 := fun s hs hd => by
    obtain ⟨hcount, -, hmax⟩ := hs.afterPayload (.inr (.inr hd))
    rwa [hcount]
  refine ⟨fun s i hd hlt hle => exec_decRdbuf_of_lt_pbufSize hd hlt (Nat.lt_succ_of_le hle),
    fun s i hd => exec_decRdbuf_of_not_done hd, fun s i hd hle => exec_decRdbuf_of_pcnt_le hd hle,
    fun s i hs hd hlt => ?_, fun s i hs hd hge => (hpcnt s hs hd).trans hge, fun i => decode_encode (.decRdbuf i),
    fun w hopc hres => ?_⟩
  · have hmax := hpcnt s hs hd
    omega
  · exact ((reservedAndUnassignedWordsFault w 0x22 hopc.symm).1 (.inr (.inr (.inl ⟨by decide, hres⟩)))).1

/-- Settles O35: bit 25 of STATUS is busy. -/
theorem decStatusReturnsStatus : Obligations.DecStatusReturnsStatus := by
  obtain ⟨hfields, hreset, -⟩ := statusWordFields
  refine ⟨fun _ => rfl, hreset, fun s hbusy => ?_, decode_encode .decStatus, fun w hopc hres => ?_⟩
  · obtain ⟨-, -, -, -, -, hbit, -⟩ := hfields s
    exact hbit.trans hbusy
  · exact ((reservedAndUnassignedWordsFault w 0x23 hopc.symm).1 (.inr (.inl ⟨by decide, hres⟩))).1

/-- Settles O38: a code outside 1 to 5 is none of the five that have names. -/
theorem exceptionCodeNames : Obligations.ExceptionCodeNames := by
  refine ⟨rfl, rfl, rfl, rfl, rfl, fun c hc => ?_⟩
  have hne : ∀ n : Nat, 1 ≤ n → n ≤ 5 → c ≠ BitVec.ofNat 8 n := by
    rintro n hlo hhi rfl
    rw [BitVec.toNat_ofNat] at hc
    omega
  unfold exName
  rw [if_neg (hne 1 (by decide) (by decide)), if_neg (hne 2 (by decide) (by decide)),
    if_neg (hne 3 (by decide) (by decide)), if_neg (hne 4 (by decide) (by decide)),
    if_neg (hne 5 (by decide) (by decide))]

/-- In ERR a command keeps the error's record, unless it is DEC.ABORT or an accepted XCH.RD (R152, R212). -/
theorem exec_of_err {i : Instr} {s t : State} (hd : s.dstate = .err) (h : exec i s = .next t) :
    (t.dstate = .err ∧ t.errcls = s.errcls ∧ t.excode = s.excode ∧ t.pcnt = s.pcnt) ∨
    (i = .decAbort ∧ t.dstate = .idle) ∨
    (∃ start words, i = .xchRd start words ∧ reqArgsOk start words = true ∧ t.dstate = .awAddr) := by
  obtain ⟨-, -, -, hkeeps, -⟩ := commandsWriteOnlyTheirElements i s t h
  cases i with
  | xchRd start words =>
    rcases execXchRd_cases h with ⟨-, rfl⟩ | ⟨-, hargs, rfl⟩ | ⟨-, -, rfl⟩
    · exact .inl ⟨hd, rfl, rfl, rfl⟩
    · exact .inr (.inr ⟨start, words, rfl, hargs, rfl⟩)
    · exact .inl ⟨hd, rfl, rfl, rfl⟩
  | decAbort => obtain rfl := execDecAbort_cases h; exact .inr (.inl ⟨rfl, rfl⟩)
  | decByte b =>
    have hquiet : s.busy = false := busy_eq_false_iff.mpr (.inr (.inr hd))
    obtain ⟨u, hrec, rfl⟩ := execDecByte_cases h
    obtain rfl := Except.ok.inj ((receive_of_quiescent hquiet).symm.trans hrec)
    exact .inl ⟨hd, rfl, rfl, rfl⟩
  | _ =>
    obtain ⟨hdstate, -, -, -, -, hpcnt, -, hclass, hcode, -⟩ := hkeeps (by simp [Instr.toSource])
    exact .inl ⟨hdstate.trans hd, hclass, hcode, hpcnt⟩

/-- Settles O48: of the host's events reset alone leaves ERR, and of the commands DEC.ABORT and an accepted XCH.RD. -/
theorem errorRecordIsSticky : Obligations.ErrorRecordIsSticky := by
  intro s t hd h
  rcases step_cases h with ⟨-, rfl⟩ | ⟨rest, -, rfl⟩ | ⟨rest, hport, rfl⟩ | ⟨w, rest, -, -, rfl⟩ |
    ⟨w, rest, i, hport, hw, hexec⟩
  · exact .inl ⟨hd, rfl, rfl, rfl⟩
  · exact .inl ⟨hd, rfl, rfl, rfl⟩
  · exact .inr (.inl ⟨rest, hport, rfl⟩)
  · exact .inl ⟨hd, rfl, rfl, rfl⟩
  · rcases exec_of_err (s := { s with port := rest }) hd hexec with hkept | ⟨rfl, hidle⟩ |
      ⟨start, words, rfl, hargs, harmed⟩
    · exact .inl hkept
    · exact .inr (.inr (.inl ⟨w, rest, hport, hw, hidle⟩))
    · exact .inr (.inr (.inr ⟨w, rest, start, words, hport, hw, hargs, harmed⟩))

end Sys2Proof.Machine
end

section
/-! SUPPORT. Bytes that no exchange waits for (R161). -/

namespace Sys2Proof.Machine

/-- Bytes fed to a quiescent decoder set STRAY and answer STATUS; without a byte nothing happens (R161). -/
theorem execAll_decFeed_of_quiescent {s : State} (hquiet : s.busy = false) {bs : List Byte} (hne : bs ≠ []) :
    execAll (decFeed bs) s =
      .next ({ s with stray := true }.result .ok { s with stray := true }.status) := by
  induction bs generalizing s with
  | nil => exact absurd rfl hne
  | cons b bs ih =>
    have hbyte := exec_decByte_of_receive_ok (receive_of_quiescent (b := b) hquiet)
    refine (execAll_cons_next hbyte).trans ?_
    cases bs with
    | nil => rfl
    | cons c cs => exact ih hquiet (List.cons_ne_nil c cs)

/-- Settles O30: the first byte sets STRAY, and every later one finds it set. -/
theorem strayBytesChangeOnlyStray : Obligations.StrayBytesChangeOnlyStray := by
  rintro s _ bs hd hne rfl
  exact execAll_decFeed_of_quiescent (busy_eq_false_iff.mpr hd) hne

end Sys2Proof.Machine
end

section
/-! SUPPORT. The header checks of R155 along the moves of the decoder: they are made on the whole header, and nothing
writes the header or DEVADDR from there until the exchange ends. -/

namespace Sys2Proof.Machine

/-- In a state that waits for no byte after the header, the header checks say nothing. -/
theorem headerChecked_of_noHeader {s : State} (hn : dstateInPayload s.dstate = false) (hlo : s.dstate ≠ .awXCrcLo)
    (hhi : s.dstate ≠ .awXCrcHi) : HeaderChecked s := by
  constructor <;> simp [hn, hlo, hhi]

/-- A header past the checks is the one that R155 asks for: its form is that of the state it led to. -/
theorem headerChecked_checkHeader (s : State) : HeaderChecked (checkHeader s) := by
  rcases checkHeader_cases s with ⟨-, heq⟩ | ⟨haddr, hfun, heq⟩ | ⟨-, -, -, heq⟩ | ⟨haddr, hfun, -, heq⟩ |
    ⟨-, -, -, heq⟩ <;> rw [heq]
  · exact headerChecked_of_noHeader rfl nofun nofun
  · exact ⟨nofun, fun _ => hfun, fun _ => haddr⟩
  · exact headerChecked_of_noHeader rfl nofun nofun
  · exact ⟨fun _ => hfun, nofun, fun _ => haddr⟩
  · exact headerChecked_of_noHeader rfl nofun nofun

/-- A received byte keeps the header's checks: the header is latched before them, and after them the exchange keeps its
form until it ends. -/
theorem HeaderChecked.of_receive {b : Byte} {s t : State} (h : HeaderChecked s) (hrec : receive b s = .ok t) :
    HeaderChecked t := by
  rcases receive_cases hrec with ⟨-, rfl⟩ | ⟨-, rfl⟩ | ⟨-, rfl⟩ | ⟨-, rfl⟩ | ⟨hd, -, rfl⟩ | ⟨hd, rfl⟩ | ⟨hd, rfl⟩ |
    ⟨hd, rfl⟩ | ⟨-, rfl⟩
  · exact { h with }
  · exact headerChecked_of_noHeader rfl nofun nofun
  · exact headerChecked_of_noHeader rfl nofun nofun
  · exact headerChecked_checkHeader _
  · have hfun := h.normal (by rw [hd]; rfl)
    have haddr := h.address (.inl (by simp [hd, dstateInPayload]))
    refine ⟨fun _ => hfun, fun hx => ?_, fun _ => haddr⟩
    by_cases hlast : s.pcnt + 1#8 = s.hdr2 <;> simp [payloadReceived, countPayload, hd, hlast] at hx
  · have hfun := h.normal (by rw [hd]; rfl)
    have haddr := h.address (.inl (by simp [hd, dstateInPayload]))
    exact ⟨fun _ => hfun, nofun, fun _ => haddr⟩
  · have hfun := h.normal (by rw [hd]; rfl)
    rcases rxCrcHi_cases b s with ⟨-, heq⟩ | ⟨-, -, heq⟩ | ⟨-, -, heq⟩ <;> rw [heq]
    · exact headerChecked_of_noHeader rfl nofun nofun
    · exact headerChecked_of_noHeader rfl nofun nofun
    · exact ⟨fun _ => hfun, nofun, by simp⟩
  · exact ⟨nofun, fun _ => h.exception (.inl hd), fun _ => h.address (.inr (.inl hd))⟩
  · rcases rxXCrcHi_cases b s with ⟨-, heq⟩ | ⟨-, heq⟩ <;> rw [heq] <;>
      exact headerChecked_of_noHeader rfl nofun nofun

/-- Every move of the decoder keeps the header's checks: DEVADDR is written on a quiescent decoder only (R190). -/
theorem HeaderChecked.of_decoderMove {s t : State} (h : DecoderMove s t) (hs : HeaderChecked s) : HeaderChecked t := by
  cases h with
  | keep => exact hs
  | reset => exact headerChecked_of_idle rfl
  | arm => exact headerChecked_of_noHeader rfl nofun nofun
  | byte _ b hrec => exact hs.of_receive hrec
  | abort => exact headerChecked_of_idle rfl
  | setaddr a hquiet _ =>
    refine ⟨hs.normal, hs.exception, ?_⟩
    rcases busy_eq_false_iff.mp hquiet with hd | hd | hd <;> simp [hd, dstateInPayload]

/-- The header's checks see only the decoder and DEVADDR. -/
theorem HeaderChecked.of_sameDecoder {s t : State} (h : SameDecoder s t) (hs : HeaderChecked s) : HeaderChecked t := by
  obtain ⟨c, x, r, v, p, rfl⟩ := h
  exact { hs with }

/-- Settles O52: the header's checks are kept along every move of the decoder. -/
theorem stepKeepsHeaderChecks : Obligations.StepKeepsHeaderChecks := fun _ _ hs h =>
  step_keeps_of_decoderMove (fun _ _ => HeaderChecked.of_sameDecoder) (fun _ _ => HeaderChecked.of_decoderMove) h hs

end Sys2Proof.Machine
end

section
/-! SUPPORT. Whole responses (R162). While an exchange is open, the decoder's registers hold the response bytes received
so far, which are too few for the table to give an outcome; the byte that ends the exchange leaves the outcome that the
table gives. -/

namespace Sys2Proof.Machine

/-! ### The outcome table, by the form of the response: the rows of R162, and the responses that reach none -/

section Table

variable {a words r0 r1 r2 : Byte} {rest : List Byte}

theorem responseVerdict_of_addrMismatch (h0 : r0 ≠ a) :
    responseVerdict a words (r0 :: r1 :: r2 :: rest) = some ⟨2, .err, .addrMismatch, 0#8, 0⟩ := by
  simp [responseVerdict, h0]

theorem responseVerdict_of_badFunc (h0 : r0 = a) (hx : r1 ≠ 0x83#8) (hn : r1 ≠ 0x03#8) :
    responseVerdict a words (r0 :: r1 :: r2 :: rest) = some ⟨2, .err, .badFunc, 0#8, 0⟩ := by
  simp [responseVerdict, h0, hx, hn]

theorem responseVerdict_of_frameSize (h0 : r0 = a) (h1 : r1 = 0x03#8) (h2 : byteLenOk r2 = false) :
    responseVerdict a words (r0 :: r1 :: r2 :: rest) = some ⟨2, .err, .frameSize, 0#8, 0⟩ := by
  simp [responseVerdict, h0, h1, byteLenOk_eq_false.mp h2]

theorem responseVerdict_of_exception_short (h0 : r0 = a) (h1 : r1 = 0x83#8) (hrest : rest.length < 2) :
    responseVerdict a words (r0 :: r1 :: r2 :: rest) = none := by
  rcases rest with - | ⟨lo, - | ⟨hi, rest⟩⟩
  · simp [responseVerdict, h0, h1]
  · simp [responseVerdict, h0, h1]
  · simp at hrest

theorem responseVerdict_of_exception {lo hi : Byte} (h0 : r0 = a) (h1 : r1 = 0x83#8) :
    responseVerdict a words (r0 :: r1 :: r2 :: lo :: hi :: rest) =
      if hiLo hi lo ≠ crc16 [r0, r1, r2] then some ⟨4, .err, .crcMismatch, 0#8, 0⟩
      else some ⟨4, .err, .device, r2, 0⟩ := by
  simp [responseVerdict, h0, h1]

theorem responseVerdict_of_normal_short (h0 : r0 = a) (h1 : r1 = 0x03#8) (h2 : byteLenOk r2 = true)
    (hrest : rest.length < r2.toNat + 2) : responseVerdict a words (r0 :: r1 :: r2 :: rest) = none := by
  have hlen := byteLenOk_iff_not.mp h2
  have hdrop : (rest.drop r2.toNat).length < 2 := by rw [List.length_drop]; omega
  rcases hcrc : rest.drop r2.toNat with - | ⟨lo, - | ⟨hi, tail⟩⟩
  · simp [responseVerdict, h0, h1, hlen, hcrc]
  · simp [responseVerdict, h0, h1, hlen, hcrc]
  · simp [hcrc] at hdrop

theorem responseVerdict_of_normal {lo hi : Byte} {payload : List Byte} (h0 : r0 = a) (h1 : r1 = 0x03#8)
    (h2 : byteLenOk r2 = true) (hpayload : payload.length = r2.toNat) :
    responseVerdict a words (r0 :: r1 :: r2 :: (payload ++ lo :: hi :: rest)) =
      if hiLo hi lo ≠ crc16 (r0 :: r1 :: r2 :: payload) then some ⟨4 + r2.toNat, .err, .crcMismatch, 0#8, r2.toNat⟩
      else if r2.toNat ≠ 2 * words.toNat then some ⟨4 + r2.toNat, .err, .lenMismatch, 0#8, r2.toNat⟩
      else some ⟨4 + r2.toNat, .done, .noError, 0#8, r2.toNat⟩ := by
  have hlen := byteLenOk_iff_not.mp h2
  rw [← hpayload] at hlen ⊢
  simp only [responseVerdict, h0, h1, ← hpayload, hlen, ne_eq, not_true_eq_false, if_false, List.drop_left,
    List.take_left, show ¬(0x03#8 = 0x83#8) by decide]

end Table

/-! ### An open exchange -/

@[simp] theorem payloadBytes_length (m : Memory) (n : Nat) : (payloadBytes m n).length = n := by
  simp [payloadBytes]

/-- The response bytes that the decoder's registers hold while an exchange is open, one constructor for each byte it can
wait for (R153 to R160). -/
inductive Received (s : State) : List Byte → Prop
  | addr : s.dstate = .awAddr → s.pcnt = 0#8 → Received s []
  | func : s.dstate = .awFunc → s.pcnt = 0#8 → Received s [s.hdr0]
  | third : s.dstate = .awB2 → s.pcnt = 0#8 → Received s [s.hdr0, s.hdr1]
  | payload : s.dstate = .awPay → byteLenOk s.hdr2 = true → s.pcnt.toNat < s.hdr2.toNat →
      Received s (s.hdr0 :: s.hdr1 :: s.hdr2 :: payloadBytes s.pbuf s.pcnt.toNat)
  | crcLo : s.dstate = .awCrcLo → byteLenOk s.hdr2 = true → s.pcnt = s.hdr2 →
      Received s (s.hdr0 :: s.hdr1 :: s.hdr2 :: payloadBytes s.pbuf s.pcnt.toNat)
  | crcHi : s.dstate = .awCrcHi → byteLenOk s.hdr2 = true → s.pcnt = s.hdr2 →
      Received s (s.hdr0 :: s.hdr1 :: s.hdr2 :: (payloadBytes s.pbuf s.pcnt.toNat ++ [s.rclo]))
  | xCrcLo : s.dstate = .awXCrcLo → s.pcnt = 0#8 → Received s [s.hdr0, s.hdr1, s.hdr2]
  | xCrcHi : s.dstate = .awXCrcHi → s.pcnt = 0#8 → Received s [s.hdr0, s.hdr1, s.hdr2, s.rclo]

theorem Received.busy {s : State} {bs : List Byte} (h : Received s bs) : s.busy = true := by
  cases h <;> simp only [State.busy, dstateBusy, *]

/-- The registers hold the same bytes whatever the result interface shows. -/
theorem Received.result {s : State} {bs : List Byte} (h : Received s bs) (r : RStat) (v : Word) :
    Received (s.result r v) bs := by
  cases h with
  | addr hd hp => exact .addr hd hp
  | func hd hp => exact .func (s := s.result r v) hd hp
  | third hd hp => exact .third (s := s.result r v) hd hp
  | payload hd hlen hp => exact .payload (s := s.result r v) hd hlen hp
  | crcLo hd hlen hp => exact .crcLo (s := s.result r v) hd hlen hp
  | crcHi hd hlen hp => exact .crcHi (s := s.result r v) hd hlen hp
  | xCrcLo hd hp => exact .xCrcLo (s := s.result r v) hd hp
  | xCrcHi hd hp => exact .xCrcHi (s := s.result r v) hd hp

/-- An exchange with the device at `a` for `words` words is open, and its response so far is `bs`. -/
structure Exchange (a words : Byte) (bs : List Byte) (s : State) : Prop where
  received : Received s bs
  crcTracks : CrcTracks s
  headerChecked : HeaderChecked s
  device : s.devaddr = a
  expects : s.expcnt.toNat = 2 * words.toNat
  noClass : s.errcls = .noError
  noCode : s.excode = 0#8
  noStray : s.stray = false

/-- The byte `b` after the response bytes `bs` has ended the exchange in `t`, with the outcome of the table whatever
bytes follow. -/
structure ExchangeEnded (a words : Byte) (bs : List Byte) (b : Byte) (t : State) : Prop where
  quiet : t.busy = false
  noStray : t.stray = false
  verdict : ∀ rest, responseVerdict a words (bs ++ b :: rest) =
    some ⟨bs.length, t.dstate, t.errcls, t.excode, t.pcnt.toNat⟩
  payload : t.dstate = .done → ∀ rest,
    payloadBytes t.pbuf t.pcnt.toNat = ((bs ++ b :: rest).drop 3).take t.pcnt.toNat

/-- Arming opens the exchange, with no byte received (R134). -/
theorem exchange_arm {s : State} {start : Half} {words : Byte} (hargs : reqArgsOk start words = true) :
    Exchange s.devaddr words [] (s.arm words) := by
  obtain ⟨-, -, hhi⟩ := reqArgsOk_eq_true.mp hargs
  refine ⟨.addr rfl rfl, crcTracks_of_coveredBytes rfl rfl, headerChecked_of_noHeader rfl nofun nofun, rfl, ?_, rfl,
    rfl, rfl⟩
  rw [State.arm_expcnt, BitVec.toNat_mul, BitVec.toNat_ofNat]
  omega

namespace Exchange

variable {a words b : Byte} {bs : List Byte} {s t : State}

theorem result (h : Exchange a words bs s) (r : RStat) (v : Word) : Exchange a words bs (s.result r v) :=
  { h with
    received := h.received.result r v
    headerChecked := { h.headerChecked with } }

/-- Past the header of a normal response, the header is the one that the table asks for. -/
theorem normalHeader (h : Exchange a words bs s) (hin : dstateInPayload s.dstate = true) :
    s.hdr0 = a ∧ s.hdr1 = 0x03#8 := by
  have hopen : s.dstate ≠ .done := fun hd => by simpa [State.busy, dstateBusy, hd] using h.received.busy
  exact ⟨(h.headerChecked.address (.inl ⟨hin, hopen⟩)).trans h.device, h.headerChecked.normal hin⟩

/-- Past the header of an exception response, the header is the one that the table asks for. -/
theorem exceptionHeader (h : Exchange a words bs s) (hx : s.dstate = .awXCrcLo ∨ s.dstate = .awXCrcHi) :
    s.hdr0 = a ∧ s.hdr1 = 0x83#8 :=
  ⟨(h.headerChecked.address (.inr hx)).trans h.device, h.headerChecked.exception hx⟩

/-- Of the bytes that leave the exchange open the table gives no outcome. -/
theorem verdict_eq_none (h : Exchange a words bs s) : responseVerdict a words bs = none := by
  cases h.received with
  | addr | func | third => rfl
  | payload hd hlen hp =>
    obtain ⟨h0, h1⟩ := h.normalHeader (by rw [hd]; rfl)
    exact responseVerdict_of_normal_short h0 h1 hlen (by rw [payloadBytes_length]; omega)
  | crcLo hd hlen hp =>
    obtain ⟨h0, h1⟩ := h.normalHeader (by rw [hd]; rfl)
    exact responseVerdict_of_normal_short h0 h1 hlen (by simp [hp])
  | crcHi hd hlen hp =>
    obtain ⟨h0, h1⟩ := h.normalHeader (by rw [hd]; rfl)
    exact responseVerdict_of_normal_short h0 h1 hlen (by simp [hp])
  | xCrcLo hd hp =>
    obtain ⟨h0, h1⟩ := h.exceptionHeader (.inl hd)
    exact responseVerdict_of_exception_short h0 h1 (by simp)
  | xCrcHi hd hp =>
    obtain ⟨h0, h1⟩ := h.exceptionHeader (.inr hd)
    exact responseVerdict_of_exception_short h0 h1 (by simp)

/-- A byte that the registers take up leaves the exchange open. -/
theorem append (h : Exchange a words bs s) (hrec : receive b s = .ok t) (hbytes : Received t (bs ++ [b]))
    (hclass : t.errcls = s.errcls) (hcode : t.excode = s.excode) (hstray : t.stray = s.stray) :
    Exchange a words (bs ++ [b]) t where
  received := hbytes
  crcTracks := h.crcTracks.of_receive hrec
  headerChecked := h.headerChecked.of_receive hrec
  device := (receive_frame hrec).devaddr.trans h.device
  expects := (receive_frame hrec).expcnt ▸ h.expects
  noClass := hclass.trans h.noClass
  noCode := hcode.trans h.noCode
  noStray := hstray.trans h.noStray

/-- The third byte completes the header: a failing check ends the exchange, and a header that passes leaves it open
(R155). -/
theorem receive_third (h : Exchange a words [s.hdr0, s.hdr1] s) (hd : s.dstate = .awB2) (hp : s.pcnt = 0#8) (b : Byte) :
    ∃ t, receive b s = .ok t ∧
      (Exchange a words [s.hdr0, s.hdr1, b] t ∨ ExchangeEnded a words [s.hdr0, s.hdr1] b t) := by
  have hrec := receive_of_awB2 (b := b) hd
  have hended : ∀ cls : ErrCls,
      (∀ rest, responseVerdict a words (s.hdr0 :: s.hdr1 :: b :: rest) = some ⟨2, .err, cls, 0#8, 0⟩) →
      ExchangeEnded a words [s.hdr0, s.hdr1] b ({ s.advanceDcrc b with hdr2 := b }.frameError cls) := fun cls hv =>
    ⟨rfl, h.noStray, fun rest => by simp [hv rest, h.noCode, hp], nofun⟩
  refine ⟨_, hrec, ?_⟩
  rcases checkHeader_cases { s.advanceDcrc b with hdr2 := b } with ⟨haddr, heq⟩ | ⟨haddr, hfun, heq⟩ |
    ⟨haddr, hx, hn, heq⟩ | ⟨haddr, hfun, hlen, heq⟩ | ⟨haddr, hfun, hlen, heq⟩ <;> rw [heq] at hrec ⊢
  · exact .inr (hended _ fun rest => responseVerdict_of_addrMismatch (h.device ▸ haddr))
  · exact .inl (h.append hrec (.xCrcLo rfl hp) rfl rfl rfl)
  · exact .inr (hended _ fun rest => responseVerdict_of_badFunc (haddr.trans h.device) hx hn)
  · have hpos := (byteLenOk_eq_true.mp hlen).1
    exact .inl (h.append hrec (.payload rfl hlen hpos) rfl rfl rfl)
  · exact .inr (hended _ fun rest => responseVerdict_of_frameSize (haddr.trans h.device) hfun hlen)

/-- A payload byte joins the payload that PBUF holds (R156). -/
theorem receive_payload (h : Exchange a words (s.hdr0 :: s.hdr1 :: s.hdr2 :: payloadBytes s.pbuf s.pcnt.toNat) s)
    (hd : s.dstate = .awPay) (hlen : byteLenOk s.hdr2 = true) (hp : s.pcnt.toNat < s.hdr2.toNat) (b : Byte) :
    ∃ t, receive b s = .ok t ∧
      Exchange a words (s.hdr0 :: s.hdr1 :: s.hdr2 :: payloadBytes s.pbuf s.pcnt.toNat ++ [b]) t := by
  have hmax := (byteLenOk_eq_true.mp hlen).2
  have hin : s.pcnt.toNat < Config.pbufSize := hp.trans_le hmax
  have hrec : receive b s = .ok (payloadReceived b s) := (receive_of_awPay hd).trans (rxPay_eq_ok.mpr ⟨hin, rfl⟩)
  have hsucc : (s.pcnt + 1#8).toNat = s.pcnt.toNat + 1 := toNat_add_one_of_lt_pbufSize hin
  have hbytes : s.hdr0 :: s.hdr1 :: s.hdr2 :: payloadBytes s.pbuf s.pcnt.toNat ++ [b] =
      s.hdr0 :: s.hdr1 :: s.hdr2 :: payloadBytes (s.pbuf.write s.pcnt.toNat b) (s.pcnt + 1#8).toNat := by
    rw [hsucc, payloadBytes_write_succ]
    rfl
  refine ⟨_, hrec, h.append hrec ?_ rfl rfl rfl⟩
  rw [hbytes]
  by_cases hlast : s.pcnt + 1#8 = s.hdr2
  · exact .crcLo (s := payloadReceived b s) (if_pos hlast) hlen hlast
  · have hne : (s.pcnt + 1#8).toNat ≠ s.hdr2.toNat := fun heq => hlast (BitVec.eq_of_toNat_eq heq)
    have hmore : (s.pcnt + 1#8).toNat < s.hdr2.toNat := by omega
    exact .payload (s := payloadReceived b s) ((if_neg hlast).trans hd) hlen hmore

/-- The last byte of a normal response ends the exchange: the CRC is checked, then the length (R158). -/
theorem receive_crcHi (h : Exchange a words bs s)
    (hbs : bs = s.hdr0 :: s.hdr1 :: s.hdr2 :: (payloadBytes s.pbuf s.pcnt.toNat ++ [s.rclo]))
    (hd : s.dstate = .awCrcHi) (hlen : byteLenOk s.hdr2 = true) (hp : s.pcnt = s.hdr2) (b : Byte) :
    ExchangeEnded a words bs b (rxCrcHi b s) := by
  obtain ⟨h0, h1⟩ := h.normalHeader (by rw [hd]; rfl)
  have hcrc : s.dcrc = crc16 (s.hdr0 :: s.hdr1 :: s.hdr2 :: payloadBytes s.pbuf s.pcnt.toNat) :=
    h.crcTracks _ (by simp [coveredBytes, hd])
  have hexpects : s.hdr2 = s.expcnt ↔ s.hdr2.toNat = 2 * words.toNat := by rw [← BitVec.toNat_inj, h.expects]
  have hlength : bs.length = 4 + s.hdr2.toNat := by simp [hbs, hp, Nat.add_comm 4]
  have hall (rest : List Byte) : bs ++ b :: rest =
      s.hdr0 :: s.hdr1 :: s.hdr2 :: (payloadBytes s.pbuf s.pcnt.toNat ++ s.rclo :: b :: rest) := by simp [hbs]
  have hverdict (rest : List Byte) := responseVerdict_of_normal (words := words) (lo := s.rclo) (hi := b) (rest := rest)
    h0 h1 hlen ((payloadBytes_length s.pbuf s.pcnt.toNat).trans (congrArg _ hp))
  rw [← hcrc] at hverdict
  rcases rxCrcHi_cases b s with ⟨hbad, heq⟩ | ⟨hgood, hne, heq⟩ | ⟨hgood, hexp, heq⟩ <;> rw [heq]
  · refine ⟨rfl, h.noStray, fun rest => ?_, nofun⟩
    rw [hall, hverdict, if_pos hbad]
    simp [hlength, h.noCode, hp]
  · refine ⟨rfl, h.noStray, fun rest => ?_, nofun⟩
    rw [hall, hverdict, if_neg (not_not.mpr hgood), if_pos (mt hexpects.mpr hne)]
    simp [hlength, h.noCode, hp]
  · refine ⟨rfl, h.noStray, fun rest => ?_, fun _ rest => ?_⟩
    · rw [hall, hverdict, if_neg (not_not.mpr hgood), if_neg (not_not.mpr (hexpects.mp hexp))]
      simp [hlength, h.noClass, h.noCode, hp]
    · simp [hall]

/-- The last byte of an exception response ends the exchange (R160). -/
theorem receive_xCrcHi (h : Exchange a words [s.hdr0, s.hdr1, s.hdr2, s.rclo] s) (hd : s.dstate = .awXCrcHi)
    (hp : s.pcnt = 0#8) (b : Byte) :
    ExchangeEnded a words [s.hdr0, s.hdr1, s.hdr2, s.rclo] b (rxXCrcHi b s) := by
  obtain ⟨h0, h1⟩ := h.exceptionHeader (.inr hd)
  have hcrc : s.dcrc = crc16 [s.hdr0, s.hdr1, s.hdr2] := h.crcTracks _ (by simp [coveredBytes, hd])
  have hverdict (rest : List Byte) := responseVerdict_of_exception (words := words) (r2 := s.hdr2) (lo := s.rclo)
    (hi := b) (rest := rest) h0 h1
  rcases rxXCrcHi_cases b s with ⟨hbad, heq⟩ | ⟨hgood, heq⟩ <;> rw [heq]
  · rw [hcrc] at hbad
    exact ⟨rfl, h.noStray, fun rest => by simp [hverdict, hbad, h.noCode, hp], nofun⟩
  · rw [hcrc] at hgood
    exact ⟨rfl, h.noStray, fun rest => by simp [hverdict, hgood, hp], nofun⟩

/-- A byte fed to an open exchange leaves it open with that byte received, or ends it as the table says. -/
theorem receive_byte (h : Exchange a words bs s) (b : Byte) :
    ∃ t, receive b s = .ok t ∧ (Exchange a words (bs ++ [b]) t ∨ ExchangeEnded a words bs b t) := by
  cases h.received with
  | addr hd hp =>
    have hrec := receive_of_awAddr (b := b) hd
    exact ⟨_, hrec, .inl (h.append hrec (.func (s := rxAddr b s) rfl hp) rfl rfl rfl)⟩
  | func hd hp =>
    have hrec := receive_of_awFunc (b := b) hd
    exact ⟨_, hrec, .inl (h.append hrec (.third (s := rxFunc b s) rfl hp) rfl rfl rfl)⟩
  | third hd hp => exact h.receive_third hd hp b
  | payload hd hlen hp =>
    obtain ⟨t, hrec, ht⟩ := h.receive_payload hd hlen hp b
    exact ⟨t, hrec, .inl ht⟩
  | crcLo hd hlen hp =>
    have hrec := receive_of_awCrcLo (b := b) hd
    exact ⟨_, hrec, .inl (h.append hrec (.crcHi (s := rxCrcLo b s) rfl hlen hp) rfl rfl rfl)⟩
  | crcHi hd hlen hp => exact ⟨_, receive_of_awCrcHi hd, .inr (h.receive_crcHi rfl hd hlen hp b)⟩
  | xCrcLo hd hp =>
    have hrec := receive_of_awXCrcLo (b := b) hd
    exact ⟨_, hrec, .inl (h.append hrec (.xCrcHi (s := rxXCrcLo b s) rfl hp) rfl rfl rfl)⟩
  | xCrcHi hd hp => exact ⟨_, receive_of_awXCrcHi hd, .inr (h.receive_xCrcHi hd hp b)⟩

end Exchange

theorem ExchangeEnded.result {a words b : Byte} {bs : List Byte} {t : State} (h : ExchangeEnded a words bs b t)
    (r : RStat) (v : Word) : ExchangeEnded a words bs b (t.result r v) :=
  { h with }

/-! ### Feeding a response -/

/-- Feeding any bytes to an open exchange leaves it open, or one of them, `b` after `p`, ends it. -/
theorem Exchange.feed {a words : Byte} {bs : List Byte} {s : State} (h : Exchange a words bs s) (r : List Byte) :
    (∃ t, execAll (decFeed r) s = .next t ∧ Exchange a words (bs ++ r) t) ∨
    ∃ p b rest t u, r = p ++ b :: rest ∧ execAll (decFeed p) s = .next t ∧ Exchange a words (bs ++ p) t ∧
      exec (.decByte b) t = .next u ∧ ExchangeEnded a words (bs ++ p) b u := by
  induction r generalizing bs s with
  | nil => exact .inl ⟨s, rfl, bs.append_nil.symm ▸ h⟩
  | cons c r ih =>
    obtain ⟨t, hrec, hopen | hended⟩ := h.receive_byte c
    · have hexec := exec_decByte_of_receive_ok hrec
      rcases ih (hopen.result .ok t.status) with ⟨u, hu, hux⟩ | ⟨p, b, rest, u, v, rfl, hu, hux, hv, hend⟩
      · exact .inl ⟨u, (execAll_cons_next hexec).trans hu, by simpa using hux⟩
      · exact .inr ⟨c :: p, b, rest, u, v, rfl, (execAll_cons_next hexec).trans hu, by simpa using hux, hv,
          by simpa using hend⟩
    · exact .inr ⟨[], c, r, s, _, rfl, rfl, by simpa using h, exec_decByte_of_receive_ok hrec,
        by simpa using hended.result .ok t.status⟩

/-- While the bytes fed are the beginning of a response without an outcome, the exchange stays open. -/
theorem Exchange.feed_of_verdict_eq_none {a words : Byte} {s : State} (h : Exchange a words [] s) {p q : List Byte}
    (hnone : responseVerdict a words (p ++ q) = none) :
    ∃ t, execAll (decFeed p) s = .next t ∧ Exchange a words p t := by
  rcases h.feed p with hopen | ⟨p', b, rest, t, u, rfl, -, -, -, hended⟩
  · exact hopen
  · have hsome := hended.verdict (rest ++ q)
    rw [List.nil_append, ← List.cons_append, ← List.append_assoc, hnone] at hsome
    cases hsome

/-- After the exchange, any further bytes change STRAY and the result alone (R161). -/
theorem execAll_decFeed_stray {s : State} (hquiet : s.busy = false) (hstray : s.stray = false) (bs : List Byte) :
    ∃ r v, execAll (decFeed bs) s = .next ({ s with stray := decide (0 < bs.length) }.result r v) := by
  cases bs with
  | nil =>
    have hsame : s = { s with stray := false }.result s.rstat s.rval := by rw [← hstray]; rfl
    exact ⟨s.rstat, s.rval, congrArg _ hsame⟩
  | cons b bs => exact ⟨_, _, execAll_decFeed_of_quiescent hquiet (List.cons_ne_nil b bs)⟩

/-- An accepted XCH.RD opens the exchange that the response bytes after it are fed to (R84, R133). -/
theorem exists_exchange_of_readReg {s : State} {start : Half} {words : Byte} (hquiet : s.busy = false)
    (hargs : reqArgsOk start words = true) : ∃ t, Exchange s.devaddr words [] t ∧
      ∀ r, execAll (readReg start words r) s = execAll (decFeed r) t :=
  ⟨(sendRequest s start words).arm words, exchange_arm (s := sendRequest s start words) hargs,
    fun _ => execAll_cons_next (exec_xchRd_of_legal hquiet hargs)⟩

/-- Settles O54: the byte that ends the exchange leaves the table's outcome, every beginning before it leaves the
exchange open, and the bytes after it are stray. -/
theorem responsesEndAsTabulated : Obligations.ResponsesEndAsTabulated := by
  intro s start words r v hquiet hargs hv
  obtain ⟨s', hopen, hread⟩ := exists_exchange_of_readReg hquiet hargs
  simp only [hread]
  rcases hopen.feed r with ⟨t, -, ht⟩ | ⟨p, b, rest, t, u, rfl, hp, ht, hb, hended⟩
  · have hnone := ht.verdict_eq_none
    rw [List.nil_append, hv] at hnone
    cases hnone
  · obtain rfl : ⟨p.length, u.dstate, u.errcls, u.excode, u.pcnt.toNat⟩ = v :=
      Option.some.inj ((hended.verdict rest).symm.trans hv)
    refine ⟨fun k hk => ?_, ?_⟩
    · have hnone : responseVerdict s.devaddr words (p.take k ++ p.drop k) = none := by
        rw [List.take_append_drop]
        exact ht.verdict_eq_none
      obtain ⟨w, hw, hwopen⟩ := hopen.feed_of_verdict_eq_none hnone
      exact ⟨w, by rwa [List.take_append_of_le_length hk], hwopen.received.busy⟩
    · obtain ⟨x, y, hstray⟩ := execAll_decFeed_stray hended.quiet hended.noStray rest
      have hsplit : decFeed (p ++ b :: rest) = decFeed p ++ .decByte b :: decFeed rest := List.map_append
      rw [hsplit, execAll_append_next hp, execAll_cons_next hb, hstray]
      exact ⟨_, rfl, rfl, rfl, rfl, rfl, by simp, fun hdone => hended.payload hdone rest⟩

/-- Settles O55: a response without an outcome leaves the exchange open, so the decoder is busy. -/
theorem shortResponsesLeaveDecoderBusy : Obligations.ShortResponsesLeaveDecoderBusy := by
  intro s start words r hquiet hargs hnone
  obtain ⟨s', hopen, hread⟩ := exists_exchange_of_readReg hquiet hargs
  obtain ⟨t, ht, htopen⟩ := hopen.feed_of_verdict_eq_none (q := []) ((List.append_nil r).symm ▸ hnone)
  have hbusy := htopen.received.busy
  exact ⟨t, (hread r).trans ht, hbusy, htopen.noClass, fun _ _ => exec_xchRd_of_busy hbusy⟩

end Sys2Proof.Machine
end

section
/-! SUPPORT. The configuration commands, one equation per outcome (R190, R191). -/

namespace Sys2Proof.Machine

section Commands

variable {a : Byte} {s : State}

/-- While busy the address is not looked at (R190, R208). -/
theorem exec_cfgSetaddr_of_busy (h : s.busy = true) : exec (.cfgSetaddr a) s = .next (s.fail .busy) :=
  if_pos h

/-- On a quiescent decoder the address alone decides (R190). -/
theorem exec_cfgSetaddr_of_quiescent (h : s.busy = false) :
    exec (.cfgSetaddr a) s =
      if addrOk a then .next ({ s with devaddr := a }.result .ok (zextByte a)) else .next (s.fail .arg) :=
  if_neg (ne_true_of_eq_false h)

theorem exec_cfgSetaddr_of_legal (hquiet : s.busy = false) (h : addrOk a = true) :
    exec (.cfgSetaddr a) s = .next ({ s with devaddr := a }.result .ok (zextByte a)) :=
  (exec_cfgSetaddr_of_quiescent hquiet).trans (if_pos h)

theorem exec_cfgSetaddr_of_illegal (hquiet : s.busy = false) (h : addrOk a = false) :
    exec (.cfgSetaddr a) s = .next (s.fail .arg) :=
  (exec_cfgSetaddr_of_quiescent hquiet).trans (if_neg (ne_true_of_eq_false h))

end Commands

/-- Settles O39: one clause for each outcome of the command, and its words are those of format B. -/
theorem cfgSetaddrSetsLegalAddress : Obligations.CfgSetaddrSetsLegalAddress := by
  refine ⟨fun s a hquiet hlo hhi => exec_cfgSetaddr_of_legal hquiet (addrOk_eq_true.mpr ⟨hlo, hhi⟩),
    fun s a hbusy => exec_cfgSetaddr_of_busy hbusy, fun s a hquiet hbad => ?_,
    fun a => decode_encode (.cfgSetaddr a), fun w hopc hres => ?_⟩
  · exact exec_cfgSetaddr_of_illegal hquiet (addrOk_eq_false.mpr (hbad.imp_left Nat.lt_one_iff.mp))
  · exact ((reservedAndUnassignedWordsFault w 0x30 hopc.symm).1 (.inr (.inr (.inl ⟨by decide, hres⟩)))).1

/-- Settles O40: the meaning and the reset value are the definitions', and the command's one word is that of format N. -/
theorem cfgGetaddrReturnsAddress : Obligations.CfgGetaddrReturnsAddress :=
  ⟨fun _ => rfl, rfl, decode_encode .cfgGetaddr,
    fun w hopc hres => ((reservedAndUnassignedWordsFault w 0x31 hopc.symm).1 (.inr (.inl ⟨by decide, hres⟩))).1⟩

end Sys2Proof.Machine
end

section
/-! SUPPORT. A step without a command: the idle block (R217) and the host removing a byte of TX (R37). -/

namespace Sys2Proof.Machine

theorem step_of_port_eq_nil {s : State} (h : s.port = []) : step s = .next s := by
  simp only [step, nextEvent, h]

theorem step_of_port_eq_takeTx {s : State} {rest : List HostEvent} (h : s.port = .takeTx :: rest) :
    step s = .next { s with port := rest }.takeTx := by
  simp only [step, nextEvent_of_port_eq_cons h]

/-- From an empty TX there is nothing to remove (log 7). -/
theorem takeTx_of_tx_eq_nil {s : State} (h : s.tx = []) : s.takeTx = s := by
  rw [State.takeTx, h, List.drop_nil, ← h]

theorem takeTx_of_tx_eq_cons {s : State} {b : Byte} {bs : List Byte} (h : s.tx = b :: bs) :
    s.takeTx = { s with tx := bs } := by
  rw [State.takeTx, h, List.drop_one, List.tail_cons]

/-- Settles O8: an empty port holds the state, and the host's removal drops the head of TX, if there is one. -/
theorem idleAndTransmitSteps : Obligations.IdleAndTransmitSteps := by
  refine ⟨fun s => step_of_port_eq_nil, fun s rest hport htx => ?_, fun s rest b bs hport htx => ?_⟩
  · rw [step_of_port_eq_takeTx hport, takeTx_of_tx_eq_nil (s := { s with port := rest }) htx]
  · rw [step_of_port_eq_takeTx hport, takeTx_of_tx_eq_cons (s := { s with port := rest }) htx]

end Sys2Proof.Machine
end

section
/-! SUPPORT. Command faults (R200 to R208): which command faults with which status, as one relation; a command faults
exactly when the relation says so, and then takes `State.fail` and nothing else. -/

namespace Sys2Proof.Machine

/-- The command faults in the state with the status: BUSY or NOT_READY by the decoder's state, and ARG only where the
decoder's state allows the command (R202, R204, R208). -/
inductive CommandFault : Instr → State → RStat → Prop
  | encRdArg {s : State} {start : Half} {words : Byte} :
      reqArgsOk start words = false → CommandFault (.encRd start words) s .arg
  | xchRdBusy {s : State} {start : Half} {words : Byte} :
      s.busy = true → CommandFault (.xchRd start words) s .busy
  | xchRdArg {s : State} {start : Half} {words : Byte} :
      s.busy = false → reqArgsOk start words = false → CommandFault (.xchRd start words) s .arg
  | decRdbufNotReady {s : State} {k : Byte} :
      s.dstate ≠ .done → CommandFault (.decRdbuf k) s .notReady
  | decRdbufArg {s : State} {k : Byte} :
      s.dstate = .done → s.pcnt.toNat ≤ k.toNat → CommandFault (.decRdbuf k) s .arg
  | cfgSetaddrBusy {s : State} {a : Byte} :
      s.busy = true → CommandFault (.cfgSetaddr a) s .busy
  | cfgSetaddrArg {s : State} {a : Byte} :
      s.busy = false → addrOk a = false → CommandFault (.cfgSetaddr a) s .arg

section Causes

variable {i : Instr} {s t : State} {r : RStat}

/-- A command that meets a cause takes that fault, with no other effect (R203). -/
theorem CommandFault.exec_eq (h : CommandFault i s r) : exec i s = .next (s.fail r) := by
  cases h with
  | encRdArg hargs => exact exec_encRd_of_illegal hargs
  | xchRdBusy hbusy => exact exec_xchRd_of_busy hbusy
  | xchRdArg hquiet hargs => exact exec_xchRd_of_illegal hquiet hargs
  | decRdbufNotReady hd => exact exec_decRdbuf_of_not_done hd
  | decRdbufArg hd hle => exact exec_decRdbuf_of_pcnt_le hd hle
  | cfgSetaddrBusy hbusy => exact exec_cfgSetaddr_of_busy hbusy
  | cfgSetaddrArg hquiet haddr => exact exec_cfgSetaddr_of_illegal hquiet haddr

/-- A command that answers returns OK or met a cause of the status it returns. -/
theorem exec_ok_or_commandFault (h : exec i s = .next t) : t.rstat = .ok ∨ CommandFault i s t.rstat := by
  cases i with
  | encRd start words =>
    rcases execEncRd_cases h with ⟨-, rfl⟩ | ⟨hargs, rfl⟩
    · exact .inl rfl
    · exact .inr (.encRdArg hargs)
  | xchRd start words =>
    rcases execXchRd_cases h with ⟨hbusy, rfl⟩ | ⟨-, -, rfl⟩ | ⟨hquiet, hargs, rfl⟩
    · exact .inr (.xchRdBusy hbusy)
    · exact .inl rfl
    · exact .inr (.xchRdArg hquiet hargs)
  | decRdbuf k =>
    rcases execDecRdbuf_cases h with ⟨hd, rfl⟩ | ⟨hd, hle, rfl⟩ | ⟨-, -, -, rfl⟩
    · exact .inr (.decRdbufNotReady hd)
    · exact .inr (.decRdbufArg hd hle)
    · exact .inl rfl
  | cfgSetaddr a =>
    rcases execCfgSetaddr_cases h with ⟨hbusy, rfl⟩ | ⟨-, -, rfl⟩ | ⟨hquiet, haddr, rfl⟩
    · exact .inr (.cfgSetaddrBusy hbusy)
    · exact .inl rfl
    · exact .inr (.cfgSetaddrArg hquiet haddr)
  | decByte b => obtain ⟨u, -, rfl⟩ := execDecByte_cases h; exact .inl rfl
  | crcInit => obtain rfl := execCrcInit_cases h; exact .inl rfl
  | crcByte b => obtain rfl := execCrcByte_cases h; exact .inl rfl
  | crcRead => obtain rfl := execCrcRead_cases h; exact .inl rfl
  | crcCheck lo hi => obtain rfl := execCrcCheck_cases h; exact .inl rfl
  | decAbort => obtain rfl := execDecAbort_cases h; exact .inl rfl
  | decStatus => obtain rfl := execDecStatus_cases h; exact .inl rfl
  | cfgGetaddr => obtain rfl := execCfgGetaddr_cases h; exact .inl rfl

/-- A command that answers returns a status other than OK exactly when it met a cause of it. -/
theorem rstat_eq_iff_commandFault (h : exec i s = .next t) (hr : r ≠ .ok) : t.rstat = r ↔ CommandFault i s r := by
  constructor
  · rintro rfl
    exact (exec_ok_or_commandFault h).resolve_left hr
  · intro hfault
    obtain rfl := Host.Outcome.next.inj (hfault.exec_eq.symm.trans h)
    rfl

/-- A command that answers a status other than OK has no other effect (R200, R203). -/
theorem eq_fail_of_rstat_ne_ok (h : exec i s = .next t) (hne : t.rstat ≠ .ok) : t = s.fail t.rstat :=
  Host.Outcome.next.inj (h.symm.trans ((exec_ok_or_commandFault h).resolve_left hne).exec_eq)

/-- ILLEGAL is a matter of the word: no decoded command returns it (R201). -/
theorem not_commandFault_illegal : ¬CommandFault i s .illegal := nofun

/-- The causes of BUSY (R204). -/
theorem commandFault_busy_iff :
    CommandFault i s .busy ↔ s.busy = true ∧ i.toSource.mnemonic ∈ [Mnemonic.xchRd, .cfgSetaddr] := by
  constructor
  · intro h
    cases h with
    | xchRdBusy hbusy => exact ⟨hbusy, by simp [Instr.toSource]⟩
    | cfgSetaddrBusy hbusy => exact ⟨hbusy, by simp [Instr.toSource]⟩
  · rintro ⟨hbusy, hmem⟩
    cases i with
    | xchRd start words => exact .xchRdBusy hbusy
    | cfgSetaddr a => exact .cfgSetaddrBusy hbusy
    | _ => simp [Instr.toSource] at hmem

/-- The cause of NOT_READY (R204). -/
theorem commandFault_notReady_iff :
    CommandFault i s .notReady ↔ s.dstate ≠ .done ∧ i.toSource.mnemonic = .decRdbuf := by
  constructor
  · intro h
    cases h with
    | decRdbufNotReady hd => exact ⟨hd, rfl⟩
  · rintro ⟨hd, hmnemonic⟩
    cases i with
    | decRdbuf k => exact .decRdbufNotReady hd
    | _ => simp [Instr.toSource] at hmnemonic

/-- The causes of ARG (R202), each only where BUSY and NOT_READY do not come before it (R208). -/
theorem commandFault_arg_iff : CommandFault i s .arg ↔
    (∃ start words, i = .encRd start words ∧ (0x1000 < start.toNat ∨ words.toNat = 0 ∨ 0x7D < words.toNat)) ∨
    (∃ start words, i = .xchRd start words ∧ s.busy = false ∧
      (0x1000 < start.toNat ∨ words.toNat = 0 ∨ 0x7D < words.toNat)) ∨
    (∃ k, i = .decRdbuf k ∧ s.dstate = .done ∧ s.pcnt.toNat ≤ k.toNat) ∨
    (∃ a, i = .cfgSetaddr a ∧ s.busy = false ∧ (a.toNat = 0 ∨ 0xF7 < a.toNat)) := by
  constructor
  · intro h
    cases h with
    | encRdArg hargs => exact .inl ⟨_, _, rfl, reqArgsOk_eq_false.mp hargs⟩
    | xchRdArg hquiet hargs => exact .inr (.inl ⟨_, _, rfl, hquiet, reqArgsOk_eq_false.mp hargs⟩)
    | decRdbufArg hd hle => exact .inr (.inr (.inl ⟨_, rfl, hd, hle⟩))
    | cfgSetaddrArg hquiet haddr => exact .inr (.inr (.inr ⟨_, rfl, hquiet, addrOk_eq_false.mp haddr⟩))
  · rintro (⟨start, words, rfl, hargs⟩ | ⟨start, words, rfl, hquiet, hargs⟩ | ⟨k, rfl, hd, hle⟩ |
      ⟨a, rfl, hquiet, haddr⟩)
    · exact .encRdArg (reqArgsOk_eq_false.mpr hargs)
    · exact .xchRdArg hquiet (reqArgsOk_eq_false.mpr hargs)
    · exact .decRdbufArg hd hle
    · exact .cfgSetaddrArg hquiet (addrOk_eq_false.mpr haddr)

end Causes

/-- The two cases of a step at a known command word: it decodes to no command and faults ILLEGAL, or its command
answers. -/
theorem step_command_cases {s t : State} {w : Word} {rest : List HostEvent} (hport : s.port = .command w :: rest)
    (h : step s = .next t) :
    (decode w = none ∧ t = { s with port := rest }.fail .illegal) ∨
    (∃ i, decode w = some i ∧ exec i { s with port := rest } = .next t) := by
  rw [step_of_port_eq_command hport] at h
  cases hw : decode w with
  | none => exact .inl ⟨rfl, Host.Outcome.next.inj (h.symm.trans (runWord_of_decode_eq_none hw _))⟩
  | some i => exact .inr ⟨i, rfl, (runWord_of_decode_eq_some hw _).symm.trans h⟩

/-- Settles O42: a word that decodes to no command faults ILLEGAL and no command does, and the other three statuses have
the causes listed. -/
theorem commandFaultCausesInOrder : Obligations.CommandFaultCausesInOrder := by
  refine ⟨fun s t w rest hport h => ?_, fun i s t h => ⟨?_, ?_, ?_⟩⟩
  · rcases step_command_cases hport h with ⟨hw, rfl⟩ | ⟨i, hw, hexec⟩
    · exact iff_of_true rfl hw
    · rw [rstat_eq_iff_commandFault hexec (by decide), hw]
      exact iff_of_false not_commandFault_illegal (Option.some_ne_none i)
  · exact (rstat_eq_iff_commandFault h (by decide)).trans commandFault_busy_iff
  · exact (rstat_eq_iff_commandFault h (by decide)).trans commandFault_notReady_iff
  · exact (rstat_eq_iff_commandFault h (by decide)).trans commandFault_arg_iff

/-- DEC.BYTE does the same whatever the result interface holds, whether the decoder answers the byte or stops. -/
theorem exec_decByte_of_other_result (b : Byte) (s : State) (r : RStat) (v : Word) :
    exec (.decByte b) { s with rstat := r, rval := v } = exec (.decByte b) s := by
  cases hrec : receive b s with
  | ok u =>
    have hcrc : u.crc = s.crc := (receive_frame hrec).crc
    calc exec (.decByte b) { s with rstat := r, rval := v }
      _ = .next ({ u with crc := s.crc, rstat := r, rval := v }.result .ok u.status) :=
        exec_decByte_of_receive_ok (receive_of_other_crc hrec s.crc r v)
      _ = .next (u.result .ok u.status) := by rw [← hcrc]; rfl
      _ = exec (.decByte b) s := (exec_decByte_of_receive_ok hrec).symm
  | error f =>
    have hstop : receive b { s with rstat := r, rval := v } = .error f :=
      receive_eq_error.mpr ((receive_eq_error (s := s)).mp hrec)
    rw [exec_decByte_of_receive_error hstop, exec_decByte_of_receive_error hrec]

/-- No command sees the result of an earlier one: DEC.BYTE passes it through the decoder, and every other meaning reads
neither RSTAT nor RVAL and overwrites both. -/
theorem exec_of_other_result (i : Instr) (s : State) (r : RStat) (v : Word) :
    exec i { s with rstat := r, rval := v } = exec i s := by
  cases i with
  | decByte b => exact exec_decByte_of_other_result b s r v
  | crcInit | crcByte | crcRead | crcCheck | encRd | xchRd | decAbort | decRdbuf | decStatus | cfgSetaddr | cfgGetaddr =>
    rfl

/-- Settles O41: an undecodable word and a command that met a cause both take `State.fail`, on the state without the
word. -/
theorem commandFaultsHaveNoEffect : Obligations.CommandFaultsHaveNoEffect := by
  refine ⟨fun s t w rest hport h hne => ?_, exec_of_other_result⟩
  rcases step_command_cases hport h with ⟨-, rfl⟩ | ⟨i, -, hexec⟩
  · rfl
  · exact eq_fail_of_rstat_ne_ok hexec hne

end Sys2Proof.Machine
end

section
/-! SUPPORT. Frame errors (R205): the bytes that end an exchange in ERR, each of which records a class. -/

namespace Sys2Proof.Machine

/-- The codes of the frame-error classes (R34). -/
theorem errclsCode_range {c : ErrCls} (h : c ≠ .noError) : 1 ≤ (errclsCode c).toNat ∧ (errclsCode c).toNat ≤ 6 := by
  cases c with
  | noError => exact absurd rfl h
  | crcMismatch | frameSize | addrMismatch | badFunc | lenMismatch | device => decide

/-- Header checks that end the exchange record a class (R155). -/
theorem checkHeader_errcls_ne_noError {s : State} (herr : (checkHeader s).dstate = .err) :
    (checkHeader s).errcls ≠ .noError := by
  rcases checkHeader_cases s with ⟨-, heq⟩ | ⟨-, -, heq⟩ | ⟨-, -, -, heq⟩ | ⟨-, -, -, heq⟩ | ⟨-, -, -, heq⟩ <;>
    rw [heq] at herr ⊢
  · exact nofun
  · cases herr
  · exact nofun
  · cases herr
  · exact nofun

/-- A normal response's last byte that ends the exchange in ERR records a class (R158). -/
theorem rxCrcHi_errcls_ne_noError {b : Byte} {s : State} (herr : (rxCrcHi b s).dstate = .err) :
    (rxCrcHi b s).errcls ≠ .noError := by
  rcases rxCrcHi_cases b s with ⟨-, heq⟩ | ⟨-, -, heq⟩ | ⟨-, -, heq⟩ <;> rw [heq] at herr ⊢
  · exact nofun
  · exact nofun
  · cases herr

/-- An exception response's last byte always records a class (R160). -/
theorem rxXCrcHi_errcls_ne_noError (b : Byte) (s : State) : (rxXCrcHi b s).errcls ≠ .noError := by
  rcases rxXCrcHi_cases b s with ⟨-, heq⟩ | ⟨-, heq⟩ <;> rw [heq] <;> exact nofun

/-- A received byte that moves the decoder to ERR records a class: the three moves to ERR of R26 are a failed header
check and the last byte of a response (R152). -/
theorem receive_errcls_ne_noError {b : Byte} {s t : State} (h : receive b s = .ok t) (hd : s.dstate ≠ .err)
    (herr : t.dstate = .err) : t.errcls ≠ .noError := by
  have hmove := (receive_dstate h).resolve_left (herr ▸ hd.symm)
  have hfrom : s.dstate = .awB2 ∨ s.dstate = .awCrcHi ∨ s.dstate = .awXCrcHi := by simpa [herr] using hmove
  rcases hfrom with hs | hs | hs
  · obtain rfl := Except.ok.inj ((receive_of_awB2 hs).symm.trans h)
    exact checkHeader_errcls_ne_noError herr
  · obtain rfl := Except.ok.inj ((receive_of_awCrcHi hs).symm.trans h)
    exact rxCrcHi_errcls_ne_noError herr
  · obtain rfl := Except.ok.inj ((receive_of_awXCrcHi hs).symm.trans h)
    exact rxXCrcHi_errcls_ne_noError b s

/-- Only DEC.BYTE moves the decoder to ERR: the other writers of DSTATE lead to AW_ADDR and to IDLE (R26). -/
theorem eq_decByte_of_exec_err {i : Instr} {s t : State} (h : exec i s = .next t) (hd : s.dstate ≠ .err)
    (herr : t.dstate = .err) : ∃ b, i = .decByte b := by
  rcases decoderMovesAlongItsTransitions i s t h (herr ▸ hd.symm) with ⟨-, -, haddr⟩ | ⟨-, hidle⟩ | ⟨hmnemonic, -⟩
  · cases herr.symm.trans haddr
  · cases herr.symm.trans hidle
  · cases i with
    | decByte b => exact ⟨b, rfl⟩
    | _ => simp [Instr.toSource] at hmnemonic

/-- Settles O47: the command is DEC.BYTE, its byte recorded a class, and its result is the STATUS of the state it left,
whose fields are the codes of DSTATE and ERRCLS (R38). -/
theorem frameErrorsComeFromDecByte : Obligations.FrameErrorsComeFromDecByte := by
  intro i s t h hd herr
  obtain ⟨b, rfl⟩ := eq_decByte_of_exec_err h hd herr
  obtain ⟨u, hrec, rfl⟩ := execDecByte_cases h
  obtain ⟨hfields, -⟩ := statusWordFields
  obtain ⟨hdstate, herrcls, -⟩ := hfields u
  obtain ⟨hlo, hhi⟩ := errclsCode_range (receive_errcls_ne_noError hrec hd herr)
  exact ⟨rfl, hlo, hhi, rfl, rfl, herrcls, hdstate.trans (congrArg dstateCode herr)⟩

end Sys2Proof.Machine
end

section
/-! SUPPORT. The external event reset: the step it takes, and reset beside DEC.ABORT (R230 to R232). -/

namespace Sys2Proof.Machine

/-- A step at a reset takes the state behind the event to its reset values (R230). -/
theorem step_of_port_eq_reset {s : State} {rest : List HostEvent} (h : s.port = .reset :: rest) :
    step s = .next { s with port := rest }.applyReset := by
  simp only [step, nextEvent_of_port_eq_cons h]

/-- STATUS is composed from decoder registers only, all of which reset writes. -/
@[simp] theorem State.applyReset_status (s : State) : s.applyReset.status = 0#32 := by
  obtain ⟨-, hreset, -⟩ := decStatusReturnsStatus
  exact hreset

/-- Reset leaves what DEC.ABORT leaves, but for CRC, DEVADDR and the unspecified PBUF (R232). -/
theorem State.applyReset_eq_abort (s : State) :
    s.applyReset = { s.clearDecoder.result .ok 0#32 with
      crc := Config.crcSeed, devaddr := Config.addrDefault, pbuf := State.reset.pbuf } :=
  rfl

/-- A byte that arrives after reset finds no exchange open, and is a stray byte (R161, R232). -/
theorem exec_decByte_applyReset (b : Byte) (s : State) :
    exec (.decByte b) s.applyReset =
      .next ((rxStray b s.applyReset).result .ok (rxStray b s.applyReset).status) :=
  exec_decByte_of_receive_ok (receive_of_quiescent rfl)

/-- Settles O9: every element is that of the reset state or TX, and the two commands read back DEVADDR and CRC. -/
theorem resetSetsResetValues : Obligations.ResetSetsResetValues := by
  intro s rest hport
  obtain ⟨hgetaddr, -⟩ := cfgGetaddrReturnsAddress
  obtain ⟨hread, -⟩ := crcReadReturnsCrc
  refine ⟨_, step_of_port_eq_reset hport, rfl, rfl, rfl, rfl, rfl, rfl, rfl, rfl, rfl, rfl, rfl, rfl, rfl, rfl, rfl,
    State.applyReset_status _, ?_, ?_⟩
  · exact ⟨_, hgetaddr _, rfl, rfl⟩
  · exact ⟨_, hread _, rfl, rfl⟩

/-- Settles O10: reset is DEC.ABORT with CRC, DEVADDR and PBUF overwritten, so every other element agrees, and the
decoder it leaves is IDLE. -/
theorem resetWhileBusyAbandonsLikeAbort : Obligations.ResetWhileBusyAbandonsLikeAbort := by
  intro s rest _ hport
  refine ⟨_, _, step_of_port_eq_reset hport, rfl, ?_⟩
  rw [State.applyReset_eq_abort]
  refine ⟨rfl, rfl, rfl, rfl, rfl, rfl, rfl, rfl, rfl, rfl, rfl, rfl, rfl, rfl, rfl, rfl, ?_⟩
  exact fun b => ⟨_, exec_decByte_applyReset b _, rfl, rfl⟩

end Sys2Proof.Machine
end
